-- ==== Sys2Proof/Word.lean ====
section
/-! DEFINITION. The word types of skycpu_core: bytes, 16-bit addresses and 32-bit operand values (00_scope R7, R10, R11). -/

namespace Sys2Proof

/-- One byte of memory or of the register file. -/
abbrev Byte := BitVec 8

/-- A 16-bit address, as PC, SP and every computed address are (R7, R53). -/
abbrev Addr := BitVec 16

/-- A resolved operand or an ALU result: 32 bits, zero-extended (R10, R100). -/
abbrev Word := BitVec 32

end Sys2Proof
end

