-- ==== Sys2Proof/Config.lean ====
section
/-! DEFINITION. What an implementation fixes: the named parameters of 00_scope R8, and the one free value of the
model (the host's answer to an escape that the queue of State does not answer). The decided values stand in
Machine/Parameters.lean. -/

namespace Sys2Proof

/-- What a multi-byte access does when it would pass address 0xFFFF (R8, R54, decision D11). -/
inductive CrossTopPolicy where
  /-- raise CrossTopAccess: the decided value -/
  | fault
  /-- byte i is at `(a + i) mod 2^16`: the other reading -/
  | wrap
  deriving DecidableEq, Repr

/-! ## The named operations (30_encoding R83), by the number of operands their rules give them -/

/-- The operations without an operand (42_control_stack_host R150, R153). -/
inductive ZeroOp where
  | nop | ret
  deriving DecidableEq, Repr

/-- The operations on one operand (42 R151 to R163, 43_alu R171 to R175, 44_conditional R201 to R204). -/
inductive OneOp where
  | jmp | call | push | brk | int | jz | snz | jnz | sz | inc | dec | not | neg | bswap | pop
  deriving DecidableEq, Repr

/-- The operations on two operands (43_alu R176 to R192, 44_conditional R205 to R220). -/
inductive TwoOp where
  | add | sub | mul | div | and | nand | or | nor | xor | bset | bclr | shl | shr | rol | ror
  | xchg | mov | je | sne | jne | se | jl | sge | jge | sl | jg | sle | jle | sg | jbs | sbc | jbc
  | sbs
  deriving DecidableEq, Repr

/-- An operation that an opcode number can be assigned (R83). -/
inductive Operation where
  | zero (o : ZeroOp)
  | one (o : OneOp)
  | two (o : TwoOp)
  deriving DecidableEq, Repr

/-- How many operands the operation's own rule gives it. -/
def Operation.operands : Operation → Nat
  | .zero _ => 0
  | .one _ => 1
  | .two _ => 2

/-! ## The parameters -/

/-- The named parameters of R8. -/
structure Params where
  /-- the operation of each opcode number, in the order of the numbers; `none`, and every number past the end of the
  list, is unassigned (R6, R83, R84) -/
  opcodeMap : List (Option Operation)
  /-- the first one-operand opcode number (R81) -/
  band1 : Nat
  /-- the first two-operand opcode number (R81) -/
  band2 : Nat
  /-- the first opcode number of the result band, INC (R82) -/
  resultLo : Nat
  /-- the last opcode number of the result band, MOV (R82) -/
  resultHi : Nat
  /-- descriptor bit 7 = 1 selects a register (R73) -/
  regFlagIsOne : Bool
  /-- the mask that extracts an inline immediate from a descriptor (R74) -/
  inlineMask : Byte
  /-- what a multi-byte access past 0xFFFF does (R54) -/
  crossTopPolicy : CrossTopPolicy
  /-- whether step 6 adds the consumed bytes after an instruction wrote PC (R139) -/
  advanceAfterPcWrite : Bool
  /-- bytes pushed by CALL and popped by RET (R152, R153) -/
  callFrameBytes : Nat
  /-- the stack pointer after initialization (R37) -/
  spReset : Addr
  deriving DecidableEq, Repr

/-- `opcodeMap(op)` (R135): the operation of an opcode number, none where it is unassigned (R84). -/
def Params.operation (P : Params) (op : BitVec 6) : Option Operation := (P.opcodeMap[op.toNat]?).join

/-- The first opcode number of an operation; where no number has it, the length of the list. DESIGN CHOICE (log 16): the
spec gives no number to an operation that the map does not assign. -/
def Params.numberOf (P : Params) (o : Operation) : Nat := P.opcodeMap.idxOf (some o)

/-- How the host answers a host escape (42_control_stack_host R160, 60_exceptions R236). -/
inductive HostAnswer where
  /-- the callback returns and the cycle goes on to step 6 -/
  | continue
  /-- the run ends inside the cycle -/
  | stop
  /-- the host starts a cycle from inside the callback, which the source forbids (R236) -/
  | reenter
  deriving DecidableEq, Repr, Inhabited

/-- FREE VALUE (log 3): the host's answer to the n-th escape when no answer is queued in State. It has no body, so a
proof about it holds for every host. -/
opaque Config.unscriptedAnswer : Nat → HostAnswer

end Sys2Proof
end

