-- ==== Sys2Proof/Machine/Parameters.lean ====
section
/-! DEFINITION. The decided values of the parameters of 00_scope R8. -/

namespace Sys2Proof

/-- Opcode numbers 0 and 1 of the reference numbering (R85). -/
def referenceZero : List Operation :=
  [.zero .nop, .zero .ret]

/-- Opcode numbers 2 to 16. -/
def referenceOne : List Operation :=
  [.one .jmp, .one .call, .one .push, .one .brk, .one .int, .one .jz, .one .snz, .one .jnz, .one .sz,
  .one .inc, .one .dec, .one .not, .one .neg, .one .bswap, .one .pop]

/-- Opcode numbers 17 to 49: to 33 the two-operand part of the result band, then the conditionals. -/
def referenceTwo : List Operation :=
  [.two .add, .two .sub, .two .mul, .two .div, .two .and, .two .nand, .two .or, .two .nor, .two .xor,
  .two .bset, .two .bclr, .two .shl, .two .shr, .two .rol, .two .ror, .two .xchg, .two .mov, .two .je,
  .two .sne, .two .jne, .two .se, .two .jl, .two .sge, .two .jge, .two .sl, .two .jg, .two .sle, .two .jle,
  .two .sg, .two .jbs, .two .sbc, .two .jbc, .two .sbs]

/-- The reference numbering of 30_encoding R85, the decided value of `opcodeMap` (R8, decision D17): 50 operations; the
numbers 50 to 63 are unassigned (log 1). -/
def referenceMap : List (Option Operation) := (referenceZero ++ referenceOne ++ referenceTwo).map some

/-- The values 00_scope R8 decides, which the examples of the spec and the machine of this model use (log 1). -/
def params : Params where
  opcodeMap := referenceMap
  band1 := 2
  band2 := 17
  resultLo := 11
  resultHi := 33
  regFlagIsOne := true
  inlineMask := 0x3F
  crossTopPolicy := .fault
  advanceAfterPcWrite := true
  callFrameBytes := 2
  spReset := 0xFFFF

end Sys2Proof
end

