-- ==== Sys2Proof/Syntax.lean ====
section
/-! DEFINITION. The syntax of the SkyCPU bytecode: widths, the eight operand forms (30_encoding R76) and one
constructor of Instr per row of spec/opcode_table.json (R85). -/

namespace Sys2Proof

/-- The operand width a bits-mode selects (30_encoding R71). -/
inductive Width where
  | w8
  | w16
  | w32
  deriving DecidableEq, Repr

/-- `w` of R10: the width in bytes. -/
def Width.bytes : Width → Nat
  | .w8 => 1
  | .w16 => 2
  | .w32 => 4

/-- `wbits` of R10. -/
def Width.bits (w : Width) : Nat := 8 * w.bytes

/-- The bits-mode field of a width (R71). -/
def Width.mode : Width → BitVec 2
  | .w8 => 0
  | .w16 => 1
  | .w32 => 2

/-- One operand encoding, by the form of R76. `code` is descriptor bits 4..0 in every form: the low bits of the
inline immediate (R74), don't-care bits in forms 3 and 4 (R77), or a register code (R75). -/
inductive Operand where
  /-- form 1, an inline constant (R102) -/
  | inline (code : BitVec 5)
  /-- form 2, a pointer at an inline address (R103) -/
  | inlinePtr (code : BitVec 5)
  /-- form 3, a literal of w bytes (R104) -/
  | literal (code : BitVec 5) (value : Word)
  /-- form 4, a pointer at a 16-bit literal address (R105) -/
  | literalPtr (code : BitVec 5) (addr : Addr)
  /-- form 5, a general register (R106) -/
  | reg (code : BitVec 5)
  /-- form 6, a pointer held in a general register (R107) -/
  | regPtr (code : BitVec 5)
  /-- form 7, a special register: code 0 is PC, code 1 is SP (R108) -/
  | special (code : BitVec 5)
  /-- form 8, a pointer held in a special register (R109) -/
  | specialPtr (code : BitVec 5)
  deriving DecidableEq, Repr

/-- An instruction: one constructor per row of the opcode table. Instructions of arity 0 keep their mode field, which
they ignore (R72). -/
inductive Instr where
  /-- NOP, opcode number 0 (R150) -/
  | nop (mode : BitVec 2)
  /-- RET, opcode number 1 (R153) -/
  | ret (mode : BitVec 2)
  /-- JMP, opcode number 2 (R151) -/
  | jmp (w : Width) (a : Operand)
  /-- CALL, opcode number 3 (R152) -/
  | call (w : Width) (a : Operand)
  /-- PUSH, opcode number 4 (R154) -/
  | push (w : Width) (a : Operand)
  /-- BRK, opcode number 5 (R162) -/
  | brk (w : Width) (a : Operand)
  /-- INT, opcode number 6 (R163) -/
  | int (w : Width) (a : Operand)
  /-- JZ, opcode number 7 (R201) -/
  | jz (w : Width) (a : Operand)
  /-- SNZ, opcode number 8 (R202) -/
  | snz (w : Width) (a : Operand)
  /-- JNZ, opcode number 9 (R203) -/
  | jnz (w : Width) (a : Operand)
  /-- SZ, opcode number 10 (R204) -/
  | sz (w : Width) (a : Operand)
  /-- INC, opcode number 11 (R171) -/
  | inc (w : Width) (a : Operand)
  /-- DEC, opcode number 12 (R172) -/
  | dec (w : Width) (a : Operand)
  /-- NOT, opcode number 13 (R173) -/
  | not (w : Width) (a : Operand)
  /-- NEG, opcode number 14 (R174) -/
  | neg (w : Width) (a : Operand)
  /-- BSWAP, opcode number 15 (R175) -/
  | bswap (w : Width) (a : Operand)
  /-- POP, opcode number 16 (R155) -/
  | pop (w : Width) (a : Operand)
  /-- ADD, opcode number 17 (R176) -/
  | add (w : Width) (a b : Operand)
  /-- SUB, opcode number 18 (R177) -/
  | sub (w : Width) (a b : Operand)
  /-- MUL, opcode number 19 (R178) -/
  | mul (w : Width) (a b : Operand)
  /-- DIV, opcode number 20 (R179) -/
  | div (w : Width) (a b : Operand)
  /-- AND, opcode number 21 (R180) -/
  | and (w : Width) (a b : Operand)
  /-- NAND, opcode number 22 (R181) -/
  | nand (w : Width) (a b : Operand)
  /-- OR, opcode number 23 (R182) -/
  | or (w : Width) (a b : Operand)
  /-- NOR, opcode number 24 (R183) -/
  | nor (w : Width) (a b : Operand)
  /-- XOR, opcode number 25 (R184) -/
  | xor (w : Width) (a b : Operand)
  /-- BSET, opcode number 26 (R185) -/
  | bset (w : Width) (a b : Operand)
  /-- BCLR, opcode number 27 (R186) -/
  | bclr (w : Width) (a b : Operand)
  /-- SHL, opcode number 28 (R187) -/
  | shl (w : Width) (a b : Operand)
  /-- SHR, opcode number 29 (R188) -/
  | shr (w : Width) (a b : Operand)
  /-- ROL, opcode number 30 (R189) -/
  | rol (w : Width) (a b : Operand)
  /-- ROR, opcode number 31 (R190) -/
  | ror (w : Width) (a b : Operand)
  /-- XCHG, opcode number 32 (R191) -/
  | xchg (w : Width) (a b : Operand)
  /-- MOV, opcode number 33 (R192) -/
  | mov (w : Width) (a b : Operand)
  /-- JE, opcode number 34 (R205) -/
  | je (w : Width) (a b : Operand)
  /-- SNE, opcode number 35 (R206) -/
  | sne (w : Width) (a b : Operand)
  /-- JNE, opcode number 36 (R207) -/
  | jne (w : Width) (a b : Operand)
  /-- SE, opcode number 37 (R208) -/
  | se (w : Width) (a b : Operand)
  /-- JL, opcode number 38 (R209) -/
  | jl (w : Width) (a b : Operand)
  /-- SGE, opcode number 39 (R210) -/
  | sge (w : Width) (a b : Operand)
  /-- JGE, opcode number 40 (R211) -/
  | jge (w : Width) (a b : Operand)
  /-- SL, opcode number 41 (R212) -/
  | sl (w : Width) (a b : Operand)
  /-- JG, opcode number 42 (R213) -/
  | jg (w : Width) (a b : Operand)
  /-- SLE, opcode number 43 (R214) -/
  | sle (w : Width) (a b : Operand)
  /-- JLE, opcode number 44 (R215) -/
  | jle (w : Width) (a b : Operand)
  /-- SG, opcode number 45 (R216) -/
  | sg (w : Width) (a b : Operand)
  /-- JBS, opcode number 46 (R217) -/
  | jbs (w : Width) (a b : Operand)
  /-- SBC, opcode number 47 (R218) -/
  | sbc (w : Width) (a b : Operand)
  /-- JBC, opcode number 48 (R219) -/
  | jbc (w : Width) (a b : Operand)
  /-- SBS, opcode number 49 (R220) -/
  | sbs (w : Width) (a b : Operand)
  /-- UNASSIGNED_50, opcode number 50 (R164) -/
  | unassigned50 (w : Width) (a b : Operand)
  /-- UNASSIGNED_51, opcode number 51 (R164) -/
  | unassigned51 (w : Width) (a b : Operand)
  /-- UNASSIGNED_52, opcode number 52 (R164) -/
  | unassigned52 (w : Width) (a b : Operand)
  /-- UNASSIGNED_53, opcode number 53 (R164) -/
  | unassigned53 (w : Width) (a b : Operand)
  /-- UNASSIGNED_54, opcode number 54 (R164) -/
  | unassigned54 (w : Width) (a b : Operand)
  /-- UNASSIGNED_55, opcode number 55 (R164) -/
  | unassigned55 (w : Width) (a b : Operand)
  /-- UNASSIGNED_56, opcode number 56 (R164) -/
  | unassigned56 (w : Width) (a b : Operand)
  /-- UNASSIGNED_57, opcode number 57 (R164) -/
  | unassigned57 (w : Width) (a b : Operand)
  /-- UNASSIGNED_58, opcode number 58 (R164) -/
  | unassigned58 (w : Width) (a b : Operand)
  /-- UNASSIGNED_59, opcode number 59 (R164) -/
  | unassigned59 (w : Width) (a b : Operand)
  /-- UNASSIGNED_60, opcode number 60 (R164) -/
  | unassigned60 (w : Width) (a b : Operand)
  /-- UNASSIGNED_61, opcode number 61 (R164) -/
  | unassigned61 (w : Width) (a b : Operand)
  /-- UNASSIGNED_62, opcode number 62 (R164) -/
  | unassigned62 (w : Width) (a b : Operand)
  /-- UNASSIGNED_63, opcode number 63 (R164) -/
  | unassigned63 (w : Width) (a b : Operand)
  deriving DecidableEq, Repr

end Sys2Proof
end

