-- ==== Sys2Proof/Decode.lean ====
section
/-! DEFINITION. The instruction decoder and its encoder (30_encoding R70 to R86). The decoder is total on any bytes
and rejects by name; the encoder writes the bytes of an instruction from the same tables. -/

namespace Sys2Proof

/-! ## Byte order -/

/-- The value of bytes in big-endian order, the first most significant (R51, R78). -/
def beValue (bs : List Byte) : Nat := bs.foldl (fun n b => n * 256 + b.toNat) 0

/-- The low `n` bytes of `v`, the most significant first (R52, R78). -/
def beBytes : Nat → Nat → List Byte
  | 0, _ => []
  | n + 1, v => BitVec.ofNat 8 (v / 256 ^ n) :: beBytes n v

/-! ## The opcode byte -/

/-- `op` of R71: bits 7 to 2 of the opcode byte. -/
def opcodeField (b : Byte) : BitVec 6 := b.extractLsb' 2 6

/-- `mode` of R71: bits 1 and 0 of the opcode byte. -/
def modeField (b : Byte) : BitVec 2 := b.extractLsb' 0 2

/-- The opcode byte of an opcode number and a mode (R71, R85). -/
def opcodeByte (op : BitVec 6) (mode : BitVec 2) : Byte := op ++ mode

/-- The width of a bits-mode (R133). Mode 3 has none (R72) and reaches no use of the width. -/
def widthOf (mode : BitVec 2) : Width :=
  if mode = 0 then .w8 else if mode = 1 then .w16 else .w32

/-- The arity band of an opcode number (R81). -/
def arity (P : Params) (op : BitVec 6) : Nat :=
  if op.toNat < P.band1 then 0 else if op.toNat < P.band2 then 1 else 2

/-- Whether an opcode number lies in the result band (R82). -/
def inResultBand (P : Params) (op : BitVec 6) : Bool :=
  decide (P.resultLo ≤ op.toNat) && decide (op.toNat ≤ P.resultHi)

/-! ## The operand descriptor byte (R73) -/

/-- K selects a register: bit 7, with the polarity `regFlagIsOne`. -/
def isRegister (P : Params) (d : Byte) : Bool := d.getLsbD 7 == P.regFlagIsOne

/-- P, bit 6: the operand is the memory at an address. -/
def isPointer (d : Byte) : Bool := d.getLsbD 6

/-- I/S, bit 5: an inline immediate, or a special-function register. -/
def isInlineOrSpecial (d : Byte) : Bool := d.getLsbD 5

/-- Bits 4 to 0. -/
def codeField (d : Byte) : BitVec 5 := d.extractLsb' 0 5

/-- A descriptor byte from its fields. -/
def descriptorOf (P : Params) (register pointer flag : Bool) (code : BitVec 5) : Byte :=
  BitVec.ofBool (register == P.regFlagIsOne) ++ BitVec.ofBool pointer ++ BitVec.ofBool flag ++ code

/-- The descriptor byte of an operand (R76). -/
def descriptor (P : Params) : Operand → Byte
  | .inline c => descriptorOf P false false true c
  | .inlinePtr c => descriptorOf P false true true c
  | .literal c _ => descriptorOf P false false false c
  | .literalPtr c _ => descriptorOf P false true false c
  | .reg c => descriptorOf P true false false c
  | .regPtr c => descriptorOf P true true false c
  | .special c => descriptorOf P true false true c
  | .specialPtr c => descriptorOf P true true true c

/-- How many bytes follow a descriptor byte (R76, R78, R79): w for a literal, 2 for a literal address, else none. -/
def extraBytes (P : Params) (w : Width) (d : Byte) : Nat :=
  if isRegister P d || isInlineOrSpecial d then 0 else if isPointer d then 2 else w.bytes

/-- The operand of a descriptor byte and the bytes after it (R76). -/
def operandOf (P : Params) (d : Byte) (extra : List Byte) : Operand :=
  match isRegister P d, isPointer d, isInlineOrSpecial d with
  | false, false, true => .inline (codeField d)
  | false, true, true => .inlinePtr (codeField d)
  | false, false, false => .literal (codeField d) (BitVec.ofNat 32 (beValue extra))
  | false, true, false => .literalPtr (codeField d) (BitVec.ofNat 16 (beValue extra))
  | true, false, false => .reg (codeField d)
  | true, true, false => .regPtr (codeField d)
  | true, false, true => .special (codeField d)
  | true, true, true => .specialPtr (codeField d)

/-- The length of an operand's encoding (R76, R111). -/
def operandLen (w : Width) : Operand → Nat
  | .literal _ _ => 1 + w.bytes
  | .literalPtr _ _ => 3
  | .inline _ => 1
  | .inlinePtr _ => 1
  | .reg _ => 1
  | .regPtr _ => 1
  | .special _ => 1
  | .specialPtr _ => 1

/-- The bytes of an operand: the descriptor, then its literal or address (R76, R78). -/
def encodeOperand (P : Params) (w : Width) (o : Operand) : List Byte :=
  descriptor P o :: match o with
    | .literal _ v => beBytes w.bytes v.toNat
    | .literalPtr _ a => beBytes 2 a.toNat
    | .inline _ => []
    | .inlinePtr _ => []
    | .reg _ => []
    | .regPtr _ => []
    | .special _ => []
    | .specialPtr _ => []

/-! ## The instructions of the opcode map (R85) -/

/-- The instruction of an operation and what its encoding holds. -/
def ZeroOp.make : ZeroOp → BitVec 2 → Instr
  | .nop => .nop
  | .ret => .ret

/-- The instruction of an operation and what its encoding holds. -/
def OneOp.make : OneOp → Width → Operand → Instr
  | .jmp => .jmp
  | .call => .call
  | .push => .push
  | .brk => .brk
  | .int => .int
  | .jz => .jz
  | .snz => .snz
  | .jnz => .jnz
  | .sz => .sz
  | .inc => .inc
  | .dec => .dec
  | .not => .not
  | .neg => .neg
  | .bswap => .bswap
  | .pop => .pop

/-- The instruction of an operation and what its encoding holds. -/
def TwoOp.make : TwoOp → Width → Operand → Operand → Instr
  | .add => .add
  | .sub => .sub
  | .mul => .mul
  | .div => .div
  | .and => .and
  | .nand => .nand
  | .or => .or
  | .nor => .nor
  | .xor => .xor
  | .bset => .bset
  | .bclr => .bclr
  | .shl => .shl
  | .shr => .shr
  | .rol => .rol
  | .ror => .ror
  | .xchg => .xchg
  | .mov => .mov
  | .je => .je
  | .sne => .sne
  | .jne => .jne
  | .se => .se
  | .jl => .jl
  | .sge => .sge
  | .jge => .jge
  | .sl => .sl
  | .jg => .jg
  | .sle => .sle
  | .jle => .jle
  | .sg => .sg
  | .jbs => .jbs
  | .sbc => .sbc
  | .jbc => .jbc
  | .sbs => .sbs

/-- The instructions of the opcode numbers 50 to 63, to which the reference numbering assigns no operation (R84). -/
def unassignedInstrs : List (Width → Operand → Operand → Instr) :=
  [.unassigned50, .unassigned51, .unassigned52, .unassigned53, .unassigned54, .unassigned55, .unassigned56,
  .unassigned57, .unassigned58, .unassigned59, .unassigned60, .unassigned61, .unassigned62, .unassigned63]

/-- The instruction of an unassigned opcode number that has one: the rows 50 to 63 of the opcode table. -/
def unassignedMake (op : BitVec 6) : Option (Width → Operand → Operand → Instr) :=
  if 50 ≤ op.toNat then unassignedInstrs[op.toNat - 50]? else none

/-- The operation an instruction is named after; none for the unassigned numbers (R85). -/
def Instr.operation : Instr → Option Operation
  | .nop _ => some (.zero .nop)
  | .ret _ => some (.zero .ret)
  | .jmp _ _ => some (.one .jmp)
  | .call _ _ => some (.one .call)
  | .push _ _ => some (.one .push)
  | .brk _ _ => some (.one .brk)
  | .int _ _ => some (.one .int)
  | .jz _ _ => some (.one .jz)
  | .snz _ _ => some (.one .snz)
  | .jnz _ _ => some (.one .jnz)
  | .sz _ _ => some (.one .sz)
  | .inc _ _ => some (.one .inc)
  | .dec _ _ => some (.one .dec)
  | .not _ _ => some (.one .not)
  | .neg _ _ => some (.one .neg)
  | .bswap _ _ => some (.one .bswap)
  | .pop _ _ => some (.one .pop)
  | .add _ _ _ => some (.two .add)
  | .sub _ _ _ => some (.two .sub)
  | .mul _ _ _ => some (.two .mul)
  | .div _ _ _ => some (.two .div)
  | .and _ _ _ => some (.two .and)
  | .nand _ _ _ => some (.two .nand)
  | .or _ _ _ => some (.two .or)
  | .nor _ _ _ => some (.two .nor)
  | .xor _ _ _ => some (.two .xor)
  | .bset _ _ _ => some (.two .bset)
  | .bclr _ _ _ => some (.two .bclr)
  | .shl _ _ _ => some (.two .shl)
  | .shr _ _ _ => some (.two .shr)
  | .rol _ _ _ => some (.two .rol)
  | .ror _ _ _ => some (.two .ror)
  | .xchg _ _ _ => some (.two .xchg)
  | .mov _ _ _ => some (.two .mov)
  | .je _ _ _ => some (.two .je)
  | .sne _ _ _ => some (.two .sne)
  | .jne _ _ _ => some (.two .jne)
  | .se _ _ _ => some (.two .se)
  | .jl _ _ _ => some (.two .jl)
  | .sge _ _ _ => some (.two .sge)
  | .jge _ _ _ => some (.two .jge)
  | .sl _ _ _ => some (.two .sl)
  | .jg _ _ _ => some (.two .jg)
  | .sle _ _ _ => some (.two .sle)
  | .jle _ _ _ => some (.two .jle)
  | .sg _ _ _ => some (.two .sg)
  | .jbs _ _ _ => some (.two .jbs)
  | .sbc _ _ _ => some (.two .sbc)
  | .jbc _ _ _ => some (.two .jbc)
  | .sbs _ _ _ => some (.two .sbs)
  | .unassigned50 _ _ _ => none
  | .unassigned51 _ _ _ => none
  | .unassigned52 _ _ _ => none
  | .unassigned53 _ _ _ => none
  | .unassigned54 _ _ _ => none
  | .unassigned55 _ _ _ => none
  | .unassigned56 _ _ _ => none
  | .unassigned57 _ _ _ => none
  | .unassigned58 _ _ _ => none
  | .unassigned59 _ _ _ => none
  | .unassigned60 _ _ _ => none
  | .unassigned61 _ _ _ => none
  | .unassigned62 _ _ _ => none
  | .unassigned63 _ _ _ => none

/-- The opcode number of an instruction in the reference numbering (R85). -/
def Instr.opcode : Instr → BitVec 6
  | .nop _ => 0
  | .ret _ => 1
  | .jmp _ _ => 2
  | .call _ _ => 3
  | .push _ _ => 4
  | .brk _ _ => 5
  | .int _ _ => 6
  | .jz _ _ => 7
  | .snz _ _ => 8
  | .jnz _ _ => 9
  | .sz _ _ => 10
  | .inc _ _ => 11
  | .dec _ _ => 12
  | .not _ _ => 13
  | .neg _ _ => 14
  | .bswap _ _ => 15
  | .pop _ _ => 16
  | .add _ _ _ => 17
  | .sub _ _ _ => 18
  | .mul _ _ _ => 19
  | .div _ _ _ => 20
  | .and _ _ _ => 21
  | .nand _ _ _ => 22
  | .or _ _ _ => 23
  | .nor _ _ _ => 24
  | .xor _ _ _ => 25
  | .bset _ _ _ => 26
  | .bclr _ _ _ => 27
  | .shl _ _ _ => 28
  | .shr _ _ _ => 29
  | .rol _ _ _ => 30
  | .ror _ _ _ => 31
  | .xchg _ _ _ => 32
  | .mov _ _ _ => 33
  | .je _ _ _ => 34
  | .sne _ _ _ => 35
  | .jne _ _ _ => 36
  | .se _ _ _ => 37
  | .jl _ _ _ => 38
  | .sge _ _ _ => 39
  | .jge _ _ _ => 40
  | .sl _ _ _ => 41
  | .jg _ _ _ => 42
  | .sle _ _ _ => 43
  | .jle _ _ _ => 44
  | .sg _ _ _ => 45
  | .jbs _ _ _ => 46
  | .sbc _ _ _ => 47
  | .jbc _ _ _ => 48
  | .sbs _ _ _ => 49
  | .unassigned50 _ _ _ => 50
  | .unassigned51 _ _ _ => 51
  | .unassigned52 _ _ _ => 52
  | .unassigned53 _ _ _ => 53
  | .unassigned54 _ _ _ => 54
  | .unassigned55 _ _ _ => 55
  | .unassigned56 _ _ _ => 56
  | .unassigned57 _ _ _ => 57
  | .unassigned58 _ _ _ => 58
  | .unassigned59 _ _ _ => 59
  | .unassigned60 _ _ _ => 60
  | .unassigned61 _ _ _ => 61
  | .unassigned62 _ _ _ => 62
  | .unassigned63 _ _ _ => 63

/-- The mode field of an instruction's opcode byte. -/
def Instr.mode : Instr → BitVec 2
  | .nop m => m
  | .ret m => m
  | .jmp w _ => w.mode
  | .call w _ => w.mode
  | .push w _ => w.mode
  | .brk w _ => w.mode
  | .int w _ => w.mode
  | .jz w _ => w.mode
  | .snz w _ => w.mode
  | .jnz w _ => w.mode
  | .sz w _ => w.mode
  | .inc w _ => w.mode
  | .dec w _ => w.mode
  | .not w _ => w.mode
  | .neg w _ => w.mode
  | .bswap w _ => w.mode
  | .pop w _ => w.mode
  | .add w _ _ => w.mode
  | .sub w _ _ => w.mode
  | .mul w _ _ => w.mode
  | .div w _ _ => w.mode
  | .and w _ _ => w.mode
  | .nand w _ _ => w.mode
  | .or w _ _ => w.mode
  | .nor w _ _ => w.mode
  | .xor w _ _ => w.mode
  | .bset w _ _ => w.mode
  | .bclr w _ _ => w.mode
  | .shl w _ _ => w.mode
  | .shr w _ _ => w.mode
  | .rol w _ _ => w.mode
  | .ror w _ _ => w.mode
  | .xchg w _ _ => w.mode
  | .mov w _ _ => w.mode
  | .je w _ _ => w.mode
  | .sne w _ _ => w.mode
  | .jne w _ _ => w.mode
  | .se w _ _ => w.mode
  | .jl w _ _ => w.mode
  | .sge w _ _ => w.mode
  | .jge w _ _ => w.mode
  | .sl w _ _ => w.mode
  | .jg w _ _ => w.mode
  | .sle w _ _ => w.mode
  | .jle w _ _ => w.mode
  | .sg w _ _ => w.mode
  | .jbs w _ _ => w.mode
  | .sbc w _ _ => w.mode
  | .jbc w _ _ => w.mode
  | .sbs w _ _ => w.mode
  | .unassigned50 w _ _ => w.mode
  | .unassigned51 w _ _ => w.mode
  | .unassigned52 w _ _ => w.mode
  | .unassigned53 w _ _ => w.mode
  | .unassigned54 w _ _ => w.mode
  | .unassigned55 w _ _ => w.mode
  | .unassigned56 w _ _ => w.mode
  | .unassigned57 w _ _ => w.mode
  | .unassigned58 w _ _ => w.mode
  | .unassigned59 w _ _ => w.mode
  | .unassigned60 w _ _ => w.mode
  | .unassigned61 w _ _ => w.mode
  | .unassigned62 w _ _ => w.mode
  | .unassigned63 w _ _ => w.mode

/-- The bytes of an instruction's operands, A first (R70). -/
def Instr.operandBytes (P : Params) : Instr → List Byte
  | .nop _ => []
  | .ret _ => []
  | .jmp w a => encodeOperand P w a
  | .call w a => encodeOperand P w a
  | .push w a => encodeOperand P w a
  | .brk w a => encodeOperand P w a
  | .int w a => encodeOperand P w a
  | .jz w a => encodeOperand P w a
  | .snz w a => encodeOperand P w a
  | .jnz w a => encodeOperand P w a
  | .sz w a => encodeOperand P w a
  | .inc w a => encodeOperand P w a
  | .dec w a => encodeOperand P w a
  | .not w a => encodeOperand P w a
  | .neg w a => encodeOperand P w a
  | .bswap w a => encodeOperand P w a
  | .pop w a => encodeOperand P w a
  | .add w a b => encodeOperand P w a ++ encodeOperand P w b
  | .sub w a b => encodeOperand P w a ++ encodeOperand P w b
  | .mul w a b => encodeOperand P w a ++ encodeOperand P w b
  | .div w a b => encodeOperand P w a ++ encodeOperand P w b
  | .and w a b => encodeOperand P w a ++ encodeOperand P w b
  | .nand w a b => encodeOperand P w a ++ encodeOperand P w b
  | .or w a b => encodeOperand P w a ++ encodeOperand P w b
  | .nor w a b => encodeOperand P w a ++ encodeOperand P w b
  | .xor w a b => encodeOperand P w a ++ encodeOperand P w b
  | .bset w a b => encodeOperand P w a ++ encodeOperand P w b
  | .bclr w a b => encodeOperand P w a ++ encodeOperand P w b
  | .shl w a b => encodeOperand P w a ++ encodeOperand P w b
  | .shr w a b => encodeOperand P w a ++ encodeOperand P w b
  | .rol w a b => encodeOperand P w a ++ encodeOperand P w b
  | .ror w a b => encodeOperand P w a ++ encodeOperand P w b
  | .xchg w a b => encodeOperand P w a ++ encodeOperand P w b
  | .mov w a b => encodeOperand P w a ++ encodeOperand P w b
  | .je w a b => encodeOperand P w a ++ encodeOperand P w b
  | .sne w a b => encodeOperand P w a ++ encodeOperand P w b
  | .jne w a b => encodeOperand P w a ++ encodeOperand P w b
  | .se w a b => encodeOperand P w a ++ encodeOperand P w b
  | .jl w a b => encodeOperand P w a ++ encodeOperand P w b
  | .sge w a b => encodeOperand P w a ++ encodeOperand P w b
  | .jge w a b => encodeOperand P w a ++ encodeOperand P w b
  | .sl w a b => encodeOperand P w a ++ encodeOperand P w b
  | .jg w a b => encodeOperand P w a ++ encodeOperand P w b
  | .sle w a b => encodeOperand P w a ++ encodeOperand P w b
  | .jle w a b => encodeOperand P w a ++ encodeOperand P w b
  | .sg w a b => encodeOperand P w a ++ encodeOperand P w b
  | .jbs w a b => encodeOperand P w a ++ encodeOperand P w b
  | .sbc w a b => encodeOperand P w a ++ encodeOperand P w b
  | .jbc w a b => encodeOperand P w a ++ encodeOperand P w b
  | .sbs w a b => encodeOperand P w a ++ encodeOperand P w b
  | .unassigned50 w a b => encodeOperand P w a ++ encodeOperand P w b
  | .unassigned51 w a b => encodeOperand P w a ++ encodeOperand P w b
  | .unassigned52 w a b => encodeOperand P w a ++ encodeOperand P w b
  | .unassigned53 w a b => encodeOperand P w a ++ encodeOperand P w b
  | .unassigned54 w a b => encodeOperand P w a ++ encodeOperand P w b
  | .unassigned55 w a b => encodeOperand P w a ++ encodeOperand P w b
  | .unassigned56 w a b => encodeOperand P w a ++ encodeOperand P w b
  | .unassigned57 w a b => encodeOperand P w a ++ encodeOperand P w b
  | .unassigned58 w a b => encodeOperand P w a ++ encodeOperand P w b
  | .unassigned59 w a b => encodeOperand P w a ++ encodeOperand P w b
  | .unassigned60 w a b => encodeOperand P w a ++ encodeOperand P w b
  | .unassigned61 w a b => encodeOperand P w a ++ encodeOperand P w b
  | .unassigned62 w a b => encodeOperand P w a ++ encodeOperand P w b
  | .unassigned63 w a b => encodeOperand P w a ++ encodeOperand P w b

/-- The opcode number of an instruction under the parameters: that of its operation in `opcodeMap`; an unassigned number
stands for itself. DESIGN CHOICE (log 16) where the map does not assign the operation, or assigns one to the number of
an unassigned instruction: such an instruction has no encoding under the map, and these bytes stand for another. -/
def Instr.opcodeIn (P : Params) (i : Instr) : BitVec 6 :=
  match i.operation with
  | some o => BitVec.ofNat 6 (P.numberOf o)
  | none => i.opcode

/-- The bytes of an instruction: the opcode byte, then its operands (R70). -/
def encode (P : Params) (i : Instr) : List Byte :=
  opcodeByte (i.opcodeIn P) i.mode :: i.operandBytes P

/-! ## The decoder -/

/-- Why the decoder gives no instruction. -/
inductive DecodeError where
  /-- bits-mode 3 on an opcode of arity 1 or 2 (R72): the cycle raises ReservedBitsMode. -/
  | reservedBitsMode (op : BitVec 6)
  /-- the bytes end inside the instruction. Memory never ends, so a fetch meets this never. -/
  | truncated
  /-- the syntax has no constructor for this number: an unassigned number below 50, or an operation in a band of another
  arity. Only under an `opcodeMap` other than the reference numbering; the cycle of Machine/Parametric.lean runs it. -/
  | noInstr (op : BitVec 6)
  deriving DecidableEq, Repr

/-- One operand, and the bytes after it (R76). -/
def decodeOperand (P : Params) (w : Width) : List Byte → Except DecodeError (Operand × List Byte)
  | [] => .error .truncated
  | d :: rest =>
    if rest.length < extraBytes P w d then .error .truncated
    else .ok (operandOf P d (rest.take (extraBytes P w d)), rest.drop (extraBytes P w d))

/-- The operand encodings of an instruction, as many as its arity. -/
inductive Operands where
  | zero
  | one (a : Operand)
  | two (a b : Operand)
  deriving DecidableEq, Repr

/-- How many operands there are. -/
def Operands.count : Operands → Nat
  | .zero => 0
  | .one _ => 1
  | .two _ _ => 2

/-- The bytes of the operands, A before B (R70). -/
def Operands.bytes (P : Params) (w : Width) : Operands → List Byte
  | .zero => []
  | .one a => encodeOperand P w a
  | .two a b => encodeOperand P w a ++ encodeOperand P w b

/-- The operands that an arity selects, and the bytes after them (R70, R81). -/
def decodeOperands (P : Params) (w : Width) (n : Nat) (bs : List Byte) : Except DecodeError (Operands × List Byte) :=
  match n with
  | 0 => .ok (.zero, bs)
  | 1 =>
    match decodeOperand P w bs with
    | .error e => .error e
    | .ok (a, rest) => .ok (.one a, rest)
  | _ + 2 =>
    match decodeOperand P w bs with
    | .error e => .error e
    | .ok (a, restA) =>
      match decodeOperand P w restA with
      | .error e => .error e
      | .ok (b, rest) => .ok (.two a b, rest)

/-- The instruction of an opcode number, from the operation the map assigns to it, its mode and the operands its band
selects; none where the syntax has no constructor for them. -/
def makeInstr (o : Option Operation) (op : BitVec 6) (mode : BitVec 2) (operands : Operands) : Option Instr :=
  match operands with
  | .zero =>
    match o with
    | some (.zero z) => some (z.make mode)
    | some (.one _) => none
    | some (.two _) => none
    | none => none
  | .one a =>
    match o with
    | some (.one z) => some (z.make (widthOf mode) a)
    | some (.zero _) => none
    | some (.two _) => none
    | none => none
  | .two a b =>
    match o with
    | some (.two z) => some (z.make (widthOf mode) a b)
    | some (.zero _) => none
    | some (.one _) => none
    | none => (unassignedMake op).map fun make => make (widthOf mode) a b

/-- The instruction at the head of the bytes, and the bytes after it (R70, R72, R133). The arity is that of the number's
band (R81), the operation that of `opcodeMap`. -/
def decode (P : Params) : List Byte → Except DecodeError (Instr × List Byte)
  | [] => .error .truncated
  | b :: rest =>
    if 1 ≤ arity P (opcodeField b) ∧ modeField b = 3 then .error (.reservedBitsMode (opcodeField b))
    else
      match decodeOperands P (widthOf (modeField b)) (arity P (opcodeField b)) rest with
      | .error e => .error e
      | .ok (operands, after) =>
        match makeInstr (P.operation (opcodeField b)) (opcodeField b) (modeField b) operands with
        | some i => .ok (i, after)
        | none => .error (.noInstr (opcodeField b))

/-- The longest instruction: two literals of 4 bytes (R80). -/
def maxLength : Nat := 11

/-- The bytes of an instruction given as a number whose low byte is the first byte; the bits from `nbits` on are 0. -/
def tableBytes (nbits w : Nat) : List Byte :=
  (List.range maxLength).map fun k => BitVec.ofNat 8 (w % 2 ^ nbits / 256 ^ k)

/-- The instruction this decoder reads from the bits `w` of an opcode-table row. -/
def decodeTableWord (nbits w : Nat) : Option Instr :=
  match decode params (tableBytes nbits w) with
  | .ok (i, _) => some i
  | .error _ => none

end Sys2Proof
end

