-- ==== Sys2Proof/Machine/State.lean ====
section
/-! DEFINITION. The architectural state (10_state R20 to R37), the model faults (60_exceptions R232), the reasons a
step can stop, and the state after initialization. -/

namespace Sys2Proof.Machine

/-- The two host-escape outputs (42_control_stack_host R160). -/
inductive HostKind where
  | breakpoint
  | interrupt
  deriving DecidableEq, Repr

/-- A host-escape event `(kind, code, pcAtFetch)` (R160). -/
structure HostEvent where
  kind : HostKind
  /-- the payload: operand A, 32 bits -/
  code : Word
  /-- the address of the escaping instruction's opcode byte -/
  pcAtFetch : Addr
  deriving DecidableEq, Repr

/-- The model faults of R232 with the information each records; R231 says what raising one does. -/
inductive ModelFault where
  /-- code 1: bits-mode 3 on an opcode of arity 1 or 2 -/
  | reservedBitsMode (op : BitVec 6)
  /-- code 2: a special-register code of 2 or more -/
  | badSpecialRegister (code : BitVec 5)
  /-- code 3: a multi-byte access that would pass 0xFFFF -/
  | crossTopAccess (addr : Addr) (count : Nat)
  /-- code 4: DIV with B = 0 -/
  | divideByZero
  /-- code 5: SHL or SHR with a count of 32 or more -/
  | shiftRange (count : Word)
  /-- code 6: a bit index of 32 or more -/
  | bitIndexRange (index : Word)
  /-- code 7: BRK or INT with its hook not installed -/
  | hostHookMissing (kind : HostKind)
  /-- code 8: a cycle started while a cycle on the same state is in progress -/
  | reentrantCycle
  deriving DecidableEq, Repr

/-- Memory as a list of (address, byte) pairs. Its one form is: addresses strictly rising and below 65536, and no entry
equal to 0, which is what an unlisted address reads as (R32, R37; `Memory.wf` in Ops). -/
structure Memory where
  cells : List Host.Cell
  deriving DecidableEq, Repr

/-- The state of the block (R20 to R37), and the model's record of the host interface. -/
structure State where
  /-- `reg[0..34]`: the 32 byte slots and the 3 padding bytes (R20, R21) -/
  regs : Vector Byte 35
  /-- the program counter (R25) -/
  pc : Addr
  /-- the stack pointer (R27) -/
  sp : Addr
  /-- `skip_next` (R30) -/
  skipNext : Bool
  /-- the hidden latch `skip_active` (R31) -/
  skipActive : Bool
  /-- the 64 KiB memory (R32) -/
  mem : Memory
  /-- `hookInstalled.brk` (R33) -/
  hookBrk : Bool
  /-- `hookInstalled.int` (R33) -/
  hookInt : Bool
  /-- the model fault that ended the run, with `pcAtFetch` (R34, R231) -/
  faulted : Option (ModelFault × Addr)
  /-- MODEL'S OWN (log 4): the escape the host answered with Stop (70_reset_and_hazards R255) -/
  stopped : Option HostEvent
  /-- MODEL'S OWN (log 5): the escape events made so far, oldest first -/
  events : List HostEvent
  /-- MODEL'S OWN (log 3): the host's answers to the coming escapes, oldest first -/
  hostAnswers : List HostAnswer
  deriving DecidableEq, Repr

/-- Why `step` stops. No instruction's meaning answers one of these: a model fault is a next state (log 2). -/
inductive Fault where
  /-- raised by `step` on a state that has faulted: it has no cycle (R142). Safe: the model says nothing past it. -/
  | faulted (fault : ModelFault) (pcAtFetch : Addr)
  /-- raised by `step` on a run that the host has ended (R255). Safe: the model says nothing past it. -/
  | stopped (event : HostEvent)
  deriving DecidableEq, Repr

/-- Why `step` gives no meaning. -/
inductive Refusal where
  /-- raised by `exec` for an instruction without a meaning; no arm does so now. Safe. -/
  | notModelled (mnemonic : String)
  /-- raised by `step` where the fetched bytes end inside an instruction, which a fetch of `maxLength` bytes never
  meets (log 7). Safe. -/
  | truncatedFetch
  /-- raised by `step` where the fetched bytes decode to no constructor of Instr, which never happens under the
  decided parameters: each of the 64 numbers has its row. Safe. -/
  | noInstr (op : BitVec 6)
  deriving DecidableEq, Repr

/-- The outcome of a step of this machine. -/
abbrev Result := Host.Outcome State Fault Refusal

/-- The state after initialization, every field at the value of R37 (R250), SP at the parameter `spReset` (R8). -/
def State.resetWith (P : Params) : State where
  regs := Vector.replicate 35 0
  pc := 0
  sp := P.spReset
  skipNext := false
  skipActive := false
  mem := ⟨[]⟩
  hookBrk := false
  hookInt := false
  faulted := none
  stopped := none
  events := []
  hostAnswers := []

/-- The state after initialization, with the decided parameters. -/
def State.reset : State := State.resetWith params

end Sys2Proof.Machine
end

