-- ==== Sys2Proof/Machine/Ops.lean ====
section
/-! DEFINITION. The named operations over memory, registers and the cycle's bookkeeping: the memory primitives
(20_memory R50 to R54), the register accesses (10_state R22), fetch and advance (41_cycle R132, R139), raising a model
fault (60_exceptions R231) and emitting a host escape (42_control_stack_host R160). -/

namespace Sys2Proof.Machine

/-! ## Memory bytes -/

/-- The byte an address list holds; an unlisted address reads 0 (R37). -/
def cellsRead : List Host.Cell → Nat → Byte
  | [], _ => 0#8
  | (k, v) :: rest, a => if k = a then v else cellsRead rest a

/-- Write one byte, keeping the canonical form: a 0 removes the entry. -/
def cellsWrite : List Host.Cell → Nat → Byte → List Host.Cell
  | [], a, v => if v = 0#8 then [] else [(a, v)]
  | (k, x) :: rest, a, v =>
    if a < k then (if v = 0#8 then (k, x) :: rest else (a, v) :: (k, x) :: rest)
    else if a = k then (if v = 0#8 then rest else (a, v) :: rest)
    else (k, x) :: cellsWrite rest a v

/-- The canonical form of a list of cells whose addresses are `lo` or more. -/
def cellsWf : Nat → List Host.Cell → Bool
  | _, [] => true
  | lo, (k, v) :: rest => decide (lo ≤ k) && decide (k < 65536) && decide (v ≠ 0#8) && cellsWf (k + 1) rest

/-- The memory is in its one canonical form. -/
def Memory.wf (m : Memory) : Bool := cellsWf 0 m.cells

/-- `mem[a]` (R11, R32). -/
def Memory.read (m : Memory) (a : Addr) : Byte := cellsRead m.cells a.toNat

/-- `mem[a] <- v`. -/
def Memory.write (m : Memory) (a : Addr) (v : Byte) : Memory := ⟨cellsWrite m.cells a.toNat v⟩

/-- The `n` bytes from `a` on; an address past 0xFFFF wraps (R53). -/
def Memory.readBytes (m : Memory) (a : Addr) : Nat → List Byte
  | 0 => []
  | n + 1 => m.read a :: m.readBytes (a + 1) n

/-- Store bytes from `a` on, in increasing order (R52); an address past 0xFFFF wraps (R53, R252). -/
def Memory.writeBytes (m : Memory) (a : Addr) : List Byte → Memory
  | [] => m
  | b :: rest => (m.write a b).writeBytes (a + 1) rest

/-! ## The memory primitives -/

/-- The access would pass 0xFFFF and the policy is to fault (R54). -/
def crossesTop (P : Params) (a : Addr) (n : Nat) : Bool :=
  decide (P.crossTopPolicy = .fault) && decide (65536 < a.toNat + n)

/-- `MemRead(a, n)` (R51), with the check of R54. -/
def memRead (P : Params) (m : Memory) (a : Addr) (n : Nat) : Except ModelFault Word :=
  if crossesTop P a n then .error (.crossTopAccess a n)
  else .ok (BitVec.ofNat 32 (beValue (m.readBytes a n)))

/-- `MemWrite(a, n, v)` (R52), with the check of R54. -/
def memWrite (P : Params) (m : Memory) (a : Addr) (n : Nat) (v : Word) : Except ModelFault Memory :=
  if crossesTop P a n then .error (.crossTopAccess a n)
  else .ok (m.writeBytes a (beBytes n v.toNat))

/-! ## Updates of one part of the state -/

def State.setRegs (s : State) (r : Vector Byte 35) : State := { s with regs := r }
def State.setPc (s : State) (a : Addr) : State := { s with pc := a }
def State.setSp (s : State) (a : Addr) : State := { s with sp := a }
def State.setMem (s : State) (m : Memory) : State := { s with mem := m }
def State.setSkips (s : State) (next active : Bool) : State := { s with skipNext := next, skipActive := active }
def State.setFaulted (s : State) (f : Option (ModelFault × Addr)) : State := { s with faulted := f }
def State.setStopped (s : State) (e : Option HostEvent) : State := { s with stopped := e }

/-! ## Registers -/

/-- `reg[i]` (R11). -/
def regByte (r : Vector Byte 35) (i : Nat) : Byte := r[i]?.getD 0#8

/-- The `n` bytes `reg[i..i+n-1]`. -/
def regBytes (r : Vector Byte 35) (i : Nat) : Nat → List Byte
  | 0 => []
  | n + 1 => regByte r i :: regBytes r (i + 1) n

/-- Store bytes into `reg[i..]`, in increasing order. -/
def regStore (r : Vector Byte 35) (i : Nat) : List Byte → Vector Byte 35
  | [] => r
  | b :: rest => regStore (r.setIfInBounds i b) (i + 1) rest

/-- `RegRead(r, n)` (R22). -/
def State.regRead (s : State) (code : BitVec 5) (n : Nat) : Word :=
  BitVec.ofNat 32 (beValue (regBytes s.regs code.toNat n))

/-- `RegWrite(r, n, v)` (R22). -/
def State.regWrite (s : State) (code : BitVec 5) (n : Nat) (v : Word) : State :=
  s.setRegs (regStore s.regs code.toNat (beBytes n v.toNat))

/-- PC for code 0, SP for code 1 (R28); only called on codes below 2. -/
def State.specialRead (s : State) (code : BitVec 5) : Addr := if code = 0 then s.pc else s.sp

/-- Replace PC (code 0) or SP (code 1) (R118). -/
def State.specialWrite (s : State) (code : BitVec 5) (v : Addr) : State :=
  if code = 0 then s.setPc v else s.setSp v

/-! ## The cycle's bookkeeping -/

/-- The state after step 1: PC is `ip0`, the byte after the opcode byte (R132). -/
def State.fetched (s : State) : State := s.setPc (s.pc + 1)

/-- Step 6: PC advances by the bytes of the operands (R139). -/
def advance (P : Params) (consumed : Nat) (pcWritten : Bool) (s : State) : State :=
  if P.advanceAfterPcWrite || !pcWritten then s.setPc (s.pc + BitVec.ofNat 16 consumed) else s

/-- Raise a model fault from the state at the start of the cycle (R231): nothing of the cycle stays but the record of
the fault and of the faulting instruction's address. -/
def State.raise (s : State) (f : ModelFault) : State := s.setFaulted (some (f, s.pc))

/-- How a cycle ends: the state it completed in, or the fault it raised (R131). `s` is the state at its start. -/
def settle (s : State) (r : Except ModelFault State) : Result :=
  match r with
  | .ok t => .next t
  | .error f => .next (s.raise f)

/-! ## Fetching an instruction -/

/-- The bytes at PC, as many as the longest instruction has (R80); addresses wrap (R53). -/
def fetchWindow (s : State) : List Byte := s.mem.readBytes s.pc maxLength

/-- The instruction at PC (R132, R133). -/
def fetchInstr (s : State) : Except DecodeError Instr :=
  match decode params (fetchWindow s) with
  | .ok (i, _) => .ok i
  | .error e => .error e

/-- The cycle of an opcode that does not decode: bits-mode 3 raises ReservedBitsMode at step 2 (R72, R133). -/
def undecoded (s : State) (e : DecodeError) : Result :=
  match e with
  | .reservedBitsMode op => .next (s.raise (.reservedBitsMode op))
  | .truncated => .refused .truncatedFetch
  | .noInstr op => .refused (.noInstr op)

/-- Store the bytes of one instruction at PC, up to the longest length, and let a cycle run (log 8). -/
def placeWord (s : State) (nbits w : Nat) : State :=
  ((s.setMem (s.mem.writeBytes s.pc (tableBytes nbits w))).setFaulted none).setStopped none

/-! ## Host escapes -/

/-- Whether the hook of a kind is installed (R33). -/
def State.hookInstalled (s : State) : HostKind → Bool
  | .breakpoint => s.hookBrk
  | .interrupt => s.hookInt

/-- The host's answer to the next escape: the first queued one, else a free value (log 3). -/
def State.nextAnswer (s : State) : HostAnswer :=
  match s.hostAnswers with
  | a :: _ => a
  | [] => Config.unscriptedAnswer s.events.length

/-- `emit` (R11, R160): the event is recorded and its answer is used up. -/
def State.emit (s : State) (e : HostEvent) : State :=
  { s with events := s.events ++ [e], hostAnswers := s.hostAnswers.tail }

end Sys2Proof.Machine
end

