-- ==== Sys2Proof/Machine/Alu.lean ====
section
/-! DEFINITION. The results of the ALU operations on 32-bit values (43_alu R170 to R192). The committer keeps the low
`wbits` bits of a result; only BSWAP, ROL and ROR depend on the width themselves (R193). -/

namespace Sys2Proof.Machine

def aluInc (a : Word) : Word := a + 1
def aluDec (a : Word) : Word := a - 1
def aluNot (a : Word) : Word := ~~~ a
/-- Two's complement (R174, general knowledge G1 of the spec). -/
def aluNeg (a : Word) : Word := - a
def aluAdd (a b : Word) : Word := a + b
def aluSub (a b : Word) : Word := a - b
def aluMul (a b : Word) : Word := a * b
def aluAnd (a b : Word) : Word := a &&& b
def aluNand (a b : Word) : Word := ~~~ (a &&& b)
def aluOr (a b : Word) : Word := a ||| b
def aluNor (a b : Word) : Word := ~~~ (a ||| b)
def aluXor (a b : Word) : Word := a ^^^ b

/-- Unsigned floor division; a zero divisor raises DivideByZero (R179). -/
def aluDiv (a b : Word) : Except ModelFault Word :=
  if b = 0 then .error .divideByZero else .ok (a / b)

/-- The w bytes of a value in reverse order (R175). -/
def aluBswap (w : Width) (a : Word) : Word :=
  BitVec.ofNat 32 (beValue (beBytes w.bytes a.toNat).reverse)

/-- `A or (1 << B)` (R185). -/
def aluBset (a b : Word) : Except ModelFault Word :=
  if 32 ≤ b.toNat then .error (.bitIndexRange b) else .ok (a ||| ((1 : Word) <<< b.toNat))

/-- `A and not (1 << B)` (R186). -/
def aluBclr (a b : Word) : Except ModelFault Word :=
  if 32 ≤ b.toNat then .error (.bitIndexRange b) else .ok (a &&& ~~~ ((1 : Word) <<< b.toNat))

/-- Logical shift left (R187). -/
def aluShl (a b : Word) : Except ModelFault Word :=
  if 32 ≤ b.toNat then .error (.shiftRange b) else .ok (a <<< b.toNat)

/-- Logical shift right (R188). -/
def aluShr (a b : Word) : Except ModelFault Word :=
  if 32 ≤ b.toNat then .error (.shiftRange b) else .ok (a >>> b.toNat)

/-- `A` rotated left by `k` places within `bits` bits, for `k < bits` and `A < 2^bits` (R189). -/
def rotateLeft (bits a k : Nat) : Nat :=
  if k = 0 then a else (a * 2 ^ k) % 2 ^ bits ||| a / 2 ^ (bits - k)

/-- `A` rotated right by `k` places within `bits` bits, for `k < bits` and `A < 2^bits` (R190). -/
def rotateRight (bits a k : Nat) : Nat :=
  if k = 0 then a else a / 2 ^ k ||| (a * 2 ^ (bits - k)) % 2 ^ bits

/-- Rotate left by `B mod wbits` (R189). -/
def aluRol (w : Width) (a b : Word) : Word := BitVec.ofNat 32 (rotateLeft w.bits a.toNat (b.toNat % w.bits))

/-- Rotate right by `B mod wbits` (R190). -/
def aluRor (w : Width) (a b : Word) : Word := BitVec.ofNat 32 (rotateRight w.bits a.toNat (b.toNat % w.bits))

end Sys2Proof.Machine
end

