-- ==== Sys2Proof/Machine/Operands.lean ====
section
/-! DEFINITION. The addressing-mode arbiter: the operand resolver (40_operands R100 to R111) and the committer (R112 to
R121), over the eight operand forms. -/

namespace Sys2Proof.Machine

/-- What the resolver outputs (R100): the value, the length of the encoding, and for a pointer form the address it
loaded from. -/
structure Resolved where
  val : Word
  len : Nat
  ea : Option Addr
  deriving DecidableEq, Repr

/-- `imm = d & inlineMask` of an inline form (R74, R101). -/
def inlineImm (P : Params) (o : Operand) : Byte := descriptor P o &&& P.inlineMask

/-- The address of the first byte after the descriptor: `a1` of R101. -/
def afterDescriptor (ip0 : Addr) (off : Nat) : Addr := ip0 + BitVec.ofNat 16 off + 1

/-- The address of a special-register pointer (R109): SP, or the byte just before the descriptor for PC. -/
def specialPointer (s : State) (off : Nat) (code : BitVec 5) : Addr :=
  if code = 0 then s.pc + BitVec.ofNat 16 off - 1 else s.sp

/-- The address a pointer form reaches, in the state in which it is used; `none` for a form that is no pointer
(R101, R113). It is the one function by which the resolver loads and the committer stores. -/
def pointerAddr (P : Params) (s : State) (ip0 : Addr) (off : Nat) (o : Operand) : Except ModelFault (Option Addr) :=
  match o with
  | .inlinePtr _ => .ok (some ((inlineImm P o).setWidth 16))
  | .literalPtr _ addr =>
    if crossesTop P (afterDescriptor ip0 off) 2 then .error (.crossTopAccess (afterDescriptor ip0 off) 2)
    else .ok (some addr)
  | .regPtr r => .ok (some ((s.regRead r 2).setWidth 16))
  | .specialPtr c =>
    if 2 ≤ c.toNat then .error (.badSpecialRegister c) else .ok (some (specialPointer s off c))
  | .inline _ => .ok none
  | .literal _ _ => .ok none
  | .reg _ => .ok none
  | .special _ => .ok none

/-- Load through a pointer form (R103, R105, R107, R109). -/
def loadThrough (P : Params) (s : State) (ip0 : Addr) (off : Nat) (w : Width) (o : Operand) :
    Except ModelFault Resolved :=
  match pointerAddr P s ip0 off o with
  | .error f => .error f
  | .ok none => .ok ⟨0, operandLen w o, none⟩
  | .ok (some ea) =>
    match memRead P s.mem ea w.bytes with
    | .error f => .error f
    | .ok v => .ok ⟨v, operandLen w o, some ea⟩

/-- The value of a special register at a width: its low byte when w = 1 (R108). -/
def specialValue (w : Width) (x : Addr) : Word :=
  match w with
  | .w8 => (x.setWidth 8).setWidth 32
  | .w16 => x.setWidth 32
  | .w32 => x.setWidth 32

/-- `Resolve(ip0, off, w)` (R101) on the decoded encoding at `ip0 + off`. A literal's bytes are read from memory, so
they raise CrossTopAccess as any other access (R104). -/
def resolve (P : Params) (s : State) (ip0 : Addr) (off : Nat) (w : Width) (o : Operand) : Except ModelFault Resolved :=
  match o with
  | .inline _ => .ok ⟨(inlineImm P o).setWidth 32, operandLen w o, none⟩
  | .literal _ v =>
    if crossesTop P (afterDescriptor ip0 off) w.bytes then .error (.crossTopAccess (afterDescriptor ip0 off) w.bytes)
    else .ok ⟨v, operandLen w o, none⟩
  | .reg r => .ok ⟨s.regRead r w.bytes, operandLen w o, none⟩
  | .special c =>
    if 2 ≤ c.toNat then .error (.badSpecialRegister c)
    else .ok ⟨specialValue w (s.specialRead c), operandLen w o, none⟩
  | .inlinePtr _ => loadThrough P s ip0 off w o
  | .literalPtr _ _ => loadThrough P s ip0 off w o
  | .regPtr _ => loadThrough P s ip0 off w o
  | .specialPtr _ => loadThrough P s ip0 off w o

/-- Store through a pointer form, at the address computed at commit time (R115, R117, R119). -/
def storeThrough (P : Params) (s : State) (ip0 : Addr) (off : Nat) (w : Width) (v : Word) (o : Operand) :
    Except ModelFault State :=
  match pointerAddr P s ip0 off o with
  | .error f => .error f
  | .ok none => .ok s
  | .ok (some ea) =>
    match memWrite P s.mem ea w.bytes v with
    | .error f => .error f
    | .ok m => .ok (s.setMem m)

/-- The value a commit stores into PC or SP (R118): zero-extended from a byte when w = 1. -/
def specialField (w : Width) (v : Word) : Addr :=
  match w with
  | .w8 => (v.setWidth 8).setWidth 16
  | .w16 => v.setWidth 16
  | .w32 => v.setWidth 16

/-- `Commit(ip0, off, w, v)` (R113) through the destination encoded at `ip0 + off`. -/
def commitTo (P : Params) (s : State) (ip0 : Addr) (off : Nat) (w : Width) (v : Word) (o : Operand) :
    Except ModelFault State :=
  match o with
  | .inline _ => .ok s
  | .literal _ _ => .ok s
  | .reg r => .ok (s.regWrite r w.bytes v)
  | .special c =>
    if 2 ≤ c.toNat then .error (.badSpecialRegister c) else .ok (s.specialWrite c (specialField w v))
  | .inlinePtr _ => storeThrough P s ip0 off w v o
  | .literalPtr _ _ => storeThrough P s ip0 off w v o
  | .regPtr _ => storeThrough P s ip0 off w v o
  | .specialPtr _ => storeThrough P s ip0 off w v o

/-- A commit through this destination writes the PC field (`pcWritten` of R139). -/
def writesPc : Operand → Bool
  | .special c => decide (c = 0)
  | .inline _ => false
  | .inlinePtr _ => false
  | .literal _ _ => false
  | .literalPtr _ _ => false
  | .reg _ => false
  | .regPtr _ => false
  | .specialPtr _ => false

/-- The operand encoded in memory at an address, as the committer decodes it afresh (R113, R121). -/
def operandAt (P : Params) (m : Memory) (a : Addr) (w : Width) : Operand :=
  operandOf P (m.read a) (m.readBytes (a + 1) (extraBytes P w (m.read a)))

end Sys2Proof.Machine
end

