-- ==== Sys2Proof/Machine/Flags.lean ====
section
/-! DEFINITION. The skip flags. The hardware has no condition codes (10_state R29): a conditional opcode computes one
boolean and sets `skip_next` with it (44_conditional R200), and the end of the cycle moves that flag into the latch
`skip_active` (41_cycle R140). -/

namespace Sys2Proof.Machine

/-- `if cond: skip_next <- true` (R200). -/
def State.skipIf (s : State) (cond : Bool) : State := s.setSkips (s.skipNext || cond) s.skipActive

/-- The end of every cycle: `skip_active <- skip_next; skip_next <- false` (R140). -/
def State.latchSkip (s : State) : State := s.setSkips false s.skipNext

/-! ## The conditions, all unsigned (R200) -/

/-- `A != 0`: JZ and SNZ (R201, R202). -/
def condNonzero (a : Word) : Bool := decide (a.toNat ≠ 0)

/-- `A = 0`: JNZ and SZ (R203, R204). -/
def condZero (a : Word) : Bool := decide (a.toNat = 0)

/-- `A != B`: JE and SNE (R205, R206). -/
def condNotEqual (a b : Word) : Bool := decide (a.toNat ≠ b.toNat)

/-- `A = B`: JNE and SE (R207, R208). -/
def condEqual (a b : Word) : Bool := decide (a.toNat = b.toNat)

/-- `A >= B`: JL and SGE (R209, R210). -/
def condGreaterEqual (a b : Word) : Bool := decide (b.toNat ≤ a.toNat)

/-- `A < B`: JGE and SL (R211, R212). -/
def condLess (a b : Word) : Bool := decide (a.toNat < b.toNat)

/-- `A <= B`: JG and SLE (R213, R214). -/
def condLessEqual (a b : Word) : Bool := decide (a.toNat ≤ b.toNat)

/-- `A > B`: JLE and SG (R215, R216). -/
def condGreater (a b : Word) : Bool := decide (b.toNat < a.toNat)

/-- Bit B of A, for an index below 32 (R217 to R220). -/
def bitTest (a b : Word) : Except ModelFault Bool :=
  if 32 ≤ b.toNat then .error (.bitIndexRange b) else .ok (a.getLsbD b.toNat)

/-- Bit B of A is 0: JBS and SBC (R217, R218). -/
def condBitClear (a b : Word) : Except ModelFault Bool :=
  match bitTest a b with
  | .error f => .error f
  | .ok x => .ok (!x)

/-- Bit B of A is 1: JBC and SBS (R219, R220). -/
def condBitSet (a b : Word) : Except ModelFault Bool := bitTest a b

end Sys2Proof.Machine
end

