-- ==== Sys2Proof/Machine/Cycle.lean ====
section
/-! DEFINITION. The execution cycle (41_cycle R130 to R141): resolution of the operands the arity selects, dispatch,
the writeback mux, advance and the skip latch, written once for every instruction. Each takes the state at the start
of the cycle. -/

namespace Sys2Proof.Machine

/-- What dispatch yields (R135): the state after its effects, the result, and whether it wrote PC. -/
structure Dispatched where
  st : State
  result : Word
  pcWritten : Bool
  deriving DecidableEq, Repr

/-- Steps 6 and the end of the cycle (R139, R140). -/
def finish (P : Params) (consumed : Nat) (pcWritten : Bool) (s : State) : State :=
  (advance P consumed pcWritten s).latchSkip

/-- Step 5, the writeback mux (R136, R138): a result-band opcode commits through A's destination unless the cycle is
suppressed. Answers the state and whether PC is written. -/
def writeback (P : Params) (op : BitVec 6) (ip0 : Addr) (w : Width) (a : Operand) (suppress : Bool) (d : Dispatched) :
    Except ModelFault (State × Bool) :=
  if inResultBand P op && !suppress then
    match commitTo P d.st ip0 0 w d.result a with
    | .error f => .error f
    | .ok t => .ok (t, d.pcWritten || writesPc a)
  else .ok (d.st, d.pcWritten)

/-- The two commits of XCHG (R137): A's destination takes B's value, then B's destination, decoded afresh, takes A's
(R121). Both are suppressed together. -/
def exchange (P : Params) (op : BitVec 6) (ip0 : Addr) (w : Width) (a : Operand) (lenA : Nat) (valA valB : Word)
    (suppress : Bool) (s : State) : Except ModelFault (State × Bool) :=
  if inResultBand P op && !suppress then
    match commitTo P s ip0 0 w valB a with
    | .error f => .error f
    | .ok t =>
      let b := operandAt P t.mem (ip0 + BitVec.ofNat 16 lenA) w
      match commitTo P t ip0 lenA w valA b with
      | .error f => .error f
      | .ok u => .ok (u, writesPc a || writesPc b)
  else .ok (s, false)

/-- The cycle of an instruction of arity 0; it has no destination (R134). -/
def cycleZero (P : Params) (s : State) (dispatch : State → Except ModelFault Dispatched) : Result :=
  settle s (match dispatch s.fetched with
    | .error f => .error f
    | .ok d => .ok (finish P 0 d.pcWritten d.st))

/-- The cycle of an instruction of arity 1 (R141). -/
def cycleOne (P : Params) (op : BitVec 6) (w : Width) (a : Operand) (s : State)
    (dispatch : State → Resolved → Except ModelFault Dispatched) : Result :=
  settle s (match resolve P s.fetched s.fetched.pc 0 w a with
    | .error f => .error f
    | .ok ra =>
      match dispatch s.fetched ra with
      | .error f => .error f
      | .ok d =>
        match writeback P op s.fetched.pc w a s.skipActive d with
        | .error f => .error f
        | .ok (t, pcWritten) => .ok (finish P ra.len pcWritten t))

/-- Step 3 of an instruction of arity 2: operand A at offset 0, then B after A's bytes (R134). -/
def resolveTwo (P : Params) (s : State) (w : Width) (a b : Operand) : Except ModelFault (Resolved × Resolved) :=
  match resolve P s s.pc 0 w a with
  | .error f => .error f
  | .ok ra =>
    match resolve P s s.pc ra.len w b with
    | .error f => .error f
    | .ok rb => .ok (ra, rb)

/-- The cycle of an instruction of arity 2 with one commit at most (R141). -/
def cycleTwo (P : Params) (op : BitVec 6) (w : Width) (a b : Operand) (s : State)
    (dispatch : State → Resolved → Resolved → Except ModelFault Dispatched) : Result :=
  settle s (match resolveTwo P s.fetched w a b with
    | .error f => .error f
    | .ok (ra, rb) =>
      match dispatch s.fetched ra rb with
      | .error f => .error f
      | .ok d =>
        match writeback P op s.fetched.pc w a s.skipActive d with
        | .error f => .error f
        | .ok (t, pcWritten) => .ok (finish P (ra.len + rb.len) pcWritten t))

/-- The cycle of XCHG, whose step 5 commits twice (R137, R191). -/
def cycleExchange (P : Params) (op : BitVec 6) (w : Width) (a b : Operand) (s : State) : Result :=
  settle s (match resolveTwo P s.fetched w a b with
    | .error f => .error f
    | .ok (ra, rb) =>
      match exchange P op s.fetched.pc w a ra.len ra.val rb.val s.skipActive s.fetched with
      | .error f => .error f
      | .ok (t, pcWritten) => .ok (finish P (ra.len + rb.len) pcWritten t))

/-! ## Dispatch shapes -/

/-- Dispatch that only computes a result. -/
def resultOnly (s : State) (r : Except ModelFault Word) : Except ModelFault Dispatched :=
  match r with
  | .error f => .error f
  | .ok v => .ok ⟨s, v, false⟩

/-- Dispatch of a conditional (R200): it sets `skip_next` when the condition holds, and nothing else. -/
def skipOnly (s : State) (c : Except ModelFault Bool) : Except ModelFault Dispatched :=
  match c with
  | .error f => .error f
  | .ok x => .ok ⟨s.skipIf x, 0, false⟩

/-- An ALU instruction of arity 1. -/
def aluOne (op : BitVec 6) (w : Width) (a : Operand) (s : State) (f : Word → Word) : Result :=
  cycleOne params op w a s fun t ra => resultOnly t (.ok (f ra.val))

/-- An ALU instruction of arity 2. -/
def aluTwo (op : BitVec 6) (w : Width) (a b : Operand) (s : State) (f : Word → Word → Except ModelFault Word) :
    Result :=
  cycleTwo params op w a b s fun t ra rb => resultOnly t (f ra.val rb.val)

/-- A conditional of arity 1. -/
def testOne (op : BitVec 6) (w : Width) (a : Operand) (s : State) (c : Word → Bool) : Result :=
  cycleOne params op w a s fun t ra => skipOnly t (.ok (c ra.val))

/-- A conditional of arity 2. -/
def testTwo (op : BitVec 6) (w : Width) (a b : Operand) (s : State) (c : Word → Word → Except ModelFault Bool) :
    Result :=
  cycleTwo params op w a b s fun t ra rb => skipOnly t (c ra.val rb.val)

end Sys2Proof.Machine
end

