-- ==== Sys2Proof/Machine/Arithmetic.lean ====
section
/-! DEFINITION. The arithmetic instructions: INC, DEC, NEG, ADD, SUB, MUL, DIV (43_alu R171, R172, R174, R176 to R179). -/

namespace Sys2Proof.Machine

/-- INC A: `A + 1` (R171). -/
def execInc (w : Width) (a : Operand) (s : State) : Result :=
  aluOne (Instr.inc w a).opcode w a s aluInc

/-- DEC A: `A - 1` (R172). -/
def execDec (w : Width) (a : Operand) (s : State) : Result :=
  aluOne (Instr.dec w a).opcode w a s aluDec

/-- NEG A: two's complement (R174). -/
def execNeg (w : Width) (a : Operand) (s : State) : Result :=
  aluOne (Instr.neg w a).opcode w a s aluNeg

/-- ADD A, B: modulo 2^32 (R176). -/
def execAdd (w : Width) (a b : Operand) (s : State) : Result :=
  aluTwo (Instr.add w a b).opcode w a b s fun x y => .ok (aluAdd x y)

/-- SUB A, B: modulo 2^32 (R177). -/
def execSub (w : Width) (a b : Operand) (s : State) : Result :=
  aluTwo (Instr.sub w a b).opcode w a b s fun x y => .ok (aluSub x y)

/-- MUL A, B: modulo 2^32 (R178). -/
def execMul (w : Width) (a b : Operand) (s : State) : Result :=
  aluTwo (Instr.mul w a b).opcode w a b s fun x y => .ok (aluMul x y)

/-- DIV A, B: unsigned floor division; B = 0 raises DivideByZero (R179). -/
def execDiv (w : Width) (a b : Operand) (s : State) : Result :=
  aluTwo (Instr.div w a b).opcode w a b s aluDiv

end Sys2Proof.Machine
end

