-- ==== Sys2Proof/Machine/Bitwise.lean ====
section
/-! DEFINITION. The bitwise instructions: NOT, AND, NAND, OR, NOR, XOR, BSET, BCLR, the shifts and the rotates (43_alu R173, R180 to R190). -/

namespace Sys2Proof.Machine

/-- NOT A: bitwise complement (R173). -/
def execNot (w : Width) (a : Operand) (s : State) : Result :=
  aluOne (Instr.not w a).opcode w a s aluNot

/-- AND A, B (R180). -/
def execAnd (w : Width) (a b : Operand) (s : State) : Result :=
  aluTwo (Instr.and w a b).opcode w a b s fun x y => .ok (aluAnd x y)

/-- NAND A, B (R181). -/
def execNand (w : Width) (a b : Operand) (s : State) : Result :=
  aluTwo (Instr.nand w a b).opcode w a b s fun x y => .ok (aluNand x y)

/-- OR A, B (R182). -/
def execOr (w : Width) (a b : Operand) (s : State) : Result :=
  aluTwo (Instr.or w a b).opcode w a b s fun x y => .ok (aluOr x y)

/-- NOR A, B (R183). -/
def execNor (w : Width) (a b : Operand) (s : State) : Result :=
  aluTwo (Instr.nor w a b).opcode w a b s fun x y => .ok (aluNor x y)

/-- XOR A, B (R184). -/
def execXor (w : Width) (a b : Operand) (s : State) : Result :=
  aluTwo (Instr.xor w a b).opcode w a b s fun x y => .ok (aluXor x y)

/-- BSET A, B: set bit B of A; B >= 32 raises BitIndexRange (R185). -/
def execBset (w : Width) (a b : Operand) (s : State) : Result :=
  aluTwo (Instr.bset w a b).opcode w a b s aluBset

/-- BCLR A, B: clear bit B of A; B >= 32 raises BitIndexRange (R186). -/
def execBclr (w : Width) (a b : Operand) (s : State) : Result :=
  aluTwo (Instr.bclr w a b).opcode w a b s aluBclr

/-- SHL A, B: logical shift left; B >= 32 raises ShiftRange (R187). -/
def execShl (w : Width) (a b : Operand) (s : State) : Result :=
  aluTwo (Instr.shl w a b).opcode w a b s aluShl

/-- SHR A, B: logical shift right; B >= 32 raises ShiftRange (R188). -/
def execShr (w : Width) (a b : Operand) (s : State) : Result :=
  aluTwo (Instr.shr w a b).opcode w a b s aluShr

/-- ROL A, B: rotate left within the width (R189). -/
def execRol (w : Width) (a b : Operand) (s : State) : Result :=
  aluTwo (Instr.rol w a b).opcode w a b s fun x y => .ok (aluRol w x y)

/-- ROR A, B: rotate right within the width (R190). -/
def execRor (w : Width) (a b : Operand) (s : State) : Result :=
  aluTwo (Instr.ror w a b).opcode w a b s fun x y => .ok (aluRor w x y)

end Sys2Proof.Machine
end

