-- ==== Sys2Proof/Machine/Conditional.lean ====
section
/-! DEFINITION. The conditional jump/skip instructions, ten pairs (44_conditional R200 to R220). Both members of a pair have the condition of the skip member; none writes PC. -/

namespace Sys2Proof.Machine

/-- JZ A: skip when `A != 0` (R201). -/
def execJz (w : Width) (a : Operand) (s : State) : Result :=
  testOne (Instr.jz w a).opcode w a s condNonzero

/-- SNZ A: skip when `A != 0` (R202). -/
def execSnz (w : Width) (a : Operand) (s : State) : Result :=
  testOne (Instr.snz w a).opcode w a s condNonzero

/-- JNZ A: skip when `A = 0` (R203). -/
def execJnz (w : Width) (a : Operand) (s : State) : Result :=
  testOne (Instr.jnz w a).opcode w a s condZero

/-- SZ A: skip when `A = 0` (R204). -/
def execSz (w : Width) (a : Operand) (s : State) : Result :=
  testOne (Instr.sz w a).opcode w a s condZero

/-- JE A, B: skip when `A != B` (R205). -/
def execJe (w : Width) (a b : Operand) (s : State) : Result :=
  testTwo (Instr.je w a b).opcode w a b s fun x y => .ok (condNotEqual x y)

/-- SNE A, B: skip when `A != B` (R206). -/
def execSne (w : Width) (a b : Operand) (s : State) : Result :=
  testTwo (Instr.sne w a b).opcode w a b s fun x y => .ok (condNotEqual x y)

/-- JNE A, B: skip when `A = B` (R207). -/
def execJne (w : Width) (a b : Operand) (s : State) : Result :=
  testTwo (Instr.jne w a b).opcode w a b s fun x y => .ok (condEqual x y)

/-- SE A, B: skip when `A = B` (R208). -/
def execSe (w : Width) (a b : Operand) (s : State) : Result :=
  testTwo (Instr.se w a b).opcode w a b s fun x y => .ok (condEqual x y)

/-- JL A, B: skip when `A >= B` (R209). -/
def execJl (w : Width) (a b : Operand) (s : State) : Result :=
  testTwo (Instr.jl w a b).opcode w a b s fun x y => .ok (condGreaterEqual x y)

/-- SGE A, B: skip when `A >= B` (R210). -/
def execSge (w : Width) (a b : Operand) (s : State) : Result :=
  testTwo (Instr.sge w a b).opcode w a b s fun x y => .ok (condGreaterEqual x y)

/-- JGE A, B: skip when `A < B` (R211). -/
def execJge (w : Width) (a b : Operand) (s : State) : Result :=
  testTwo (Instr.jge w a b).opcode w a b s fun x y => .ok (condLess x y)

/-- SL A, B: skip when `A < B` (R212). -/
def execSl (w : Width) (a b : Operand) (s : State) : Result :=
  testTwo (Instr.sl w a b).opcode w a b s fun x y => .ok (condLess x y)

/-- JG A, B: skip when `A <= B` (R213). -/
def execJg (w : Width) (a b : Operand) (s : State) : Result :=
  testTwo (Instr.jg w a b).opcode w a b s fun x y => .ok (condLessEqual x y)

/-- SLE A, B: skip when `A <= B` (R214). -/
def execSle (w : Width) (a b : Operand) (s : State) : Result :=
  testTwo (Instr.sle w a b).opcode w a b s fun x y => .ok (condLessEqual x y)

/-- JLE A, B: skip when `A > B` (R215). -/
def execJle (w : Width) (a b : Operand) (s : State) : Result :=
  testTwo (Instr.jle w a b).opcode w a b s fun x y => .ok (condGreater x y)

/-- SG A, B: skip when `A > B` (R216). -/
def execSg (w : Width) (a b : Operand) (s : State) : Result :=
  testTwo (Instr.sg w a b).opcode w a b s fun x y => .ok (condGreater x y)

/-- JBS A, B: skip when bit B of A is clear; B >= 32 raises BitIndexRange (R217). -/
def execJbs (w : Width) (a b : Operand) (s : State) : Result :=
  testTwo (Instr.jbs w a b).opcode w a b s condBitClear

/-- SBC A, B: skip when bit B of A is clear; B >= 32 raises BitIndexRange (R218). -/
def execSbc (w : Width) (a b : Operand) (s : State) : Result :=
  testTwo (Instr.sbc w a b).opcode w a b s condBitClear

/-- JBC A, B: skip when bit B of A is set; B >= 32 raises BitIndexRange (R219). -/
def execJbc (w : Width) (a b : Operand) (s : State) : Result :=
  testTwo (Instr.jbc w a b).opcode w a b s condBitSet

/-- SBS A, B: skip when bit B of A is set; B >= 32 raises BitIndexRange (R220). -/
def execSbs (w : Width) (a b : Operand) (s : State) : Result :=
  testTwo (Instr.sbs w a b).opcode w a b s condBitSet

end Sys2Proof.Machine
end

