-- ==== Sys2Proof/Machine/Control.lean ====
section
/-! DEFINITION. Control transfer: NOP, JMP, CALL, RET (42_control_stack_host R150 to R153). -/

namespace Sys2Proof.Machine

/-- NOP: no effect; PC ends at `ip0` (R150). -/
def execNop (_mode : BitVec 2) (s : State) : Result :=
  cycleZero params s fun t => .ok ⟨t, 0, false⟩

/-- The jump of JMP: `PC <- A[15:0]` (R151). -/
def jumpTo (s : State) (target : Word) : Dispatched := ⟨s.setPc (target.setWidth 16), 0, true⟩

/-- JMP A (R151); step 6 then adds the operand's length (R139). -/
def execJmp (w : Width) (a : Operand) (s : State) : Result :=
  cycleOne params (Instr.jmp w a).opcode w a s fun t ra => .ok (jumpTo t ra.val)

/-- The dispatch of CALL (R152): push the address of the instruction after the CALL, then jump. -/
def callTo (P : Params) (s : State) (consumed : Nat) (target : Word) : Except ModelFault Dispatched :=
  match memWrite P s.mem (s.sp - BitVec.ofNat 16 P.callFrameBytes) P.callFrameBytes
      ((s.pc + BitVec.ofNat 16 consumed).setWidth 32) with
  | .error f => .error f
  | .ok m => .ok (jumpTo ((s.setSp (s.sp - BitVec.ofNat 16 P.callFrameBytes)).setMem m) target)

/-- CALL A (R152). -/
def execCall (w : Width) (a : Operand) (s : State) : Result :=
  cycleOne params (Instr.call w a).opcode w a s fun t ra => callTo params t ra.len ra.val

/-- The dispatch of RET (R153): pop PC. -/
def returnFrom (P : Params) (s : State) : Except ModelFault Dispatched :=
  match memRead P s.mem s.sp P.callFrameBytes with
  | .error f => .error f
  | .ok v => .ok (jumpTo (s.setSp (s.sp + BitVec.ofNat 16 P.callFrameBytes)) v)

/-- RET: the mode is ignored (R72, R153). -/
def execRet (_mode : BitVec 2) (s : State) : Result :=
  cycleZero params s (returnFrom params)

end Sys2Proof.Machine
end

