-- ==== Sys2Proof/Machine/HostEscape.lean ====
section
/-! DEFINITION. The host escapes BRK and INT (42_control_stack_host R160 to R163, 60_exceptions R236, 70_reset_and_hazards R255). -/

namespace Sys2Proof.Machine

/-- The escape of a kind with the payload `code`, from the state `s` at the start of the cycle. The hook is checked
(R161); the event is emitted with the state as it stands after step 3; then the host's answer decides (R160): the cycle
goes on, by `goOn`, or the run ends inside the cycle (R255), or the host starts a cycle from inside the callback and the
outer cycle ends with ReentrantCycle. A fault after the event does not undo it (R231, R236). -/
def answerEscape (kind : HostKind) (code : Word) (s : State) (goOn : State → Except ModelFault State) : Result :=
  if s.hookInstalled kind then
    match s.nextAnswer with
    | .continue => settle (s.emit ⟨kind, code, s.pc⟩) (goOn (s.fetched.emit ⟨kind, code, s.pc⟩))
    | .stop => .next ((s.fetched.emit ⟨kind, code, s.pc⟩).setStopped (some ⟨kind, code, s.pc⟩))
    | .reenter => .next ((s.emit ⟨kind, code, s.pc⟩).raise .reentrantCycle)
  else .next (s.raise (.hostHookMissing kind))

/-- The cycle of BRK and INT: resolve A, escape, and go on to step 6. In the reference numbering neither opcode is in the
result band, so there is no step 5. -/
def hostEscape (P : Params) (kind : HostKind) (w : Width) (a : Operand) (s : State) : Result :=
  match resolve P s.fetched s.fetched.pc 0 w a with
  | .error f => .next (s.raise f)
  | .ok ra => answerEscape kind ra.val s fun t => .ok (finish P ra.len false t)

/-- BRK A (R162). -/
def execBrk (w : Width) (a : Operand) (s : State) : Result :=
  hostEscape params .breakpoint w a s

/-- INT A (R163). -/
def execInt (w : Width) (a : Operand) (s : State) : Result :=
  hostEscape params .interrupt w a s

end Sys2Proof.Machine
end

