-- ==== Sys2Proof/Machine/Movement.lean ====
section
/-! DEFINITION. Data movement: BSWAP, XCHG, MOV (43_alu R175, R191, R192). -/

namespace Sys2Proof.Machine

/-- BSWAP A: reverse the w bytes of A (R175). -/
def execBswap (w : Width) (a : Operand) (s : State) : Result :=
  aluOne (Instr.bswap w a).opcode w a s (aluBswap w)

/-- XCHG A, B: two commits in one cycle (R137, R191). -/
def execXchg (w : Width) (a b : Operand) (s : State) : Result :=
  cycleExchange params (Instr.xchg w a b).opcode w a b s

/-- MOV A, B: the result is B; A is resolved all the same (R192). -/
def execMov (w : Width) (a b : Operand) (s : State) : Result :=
  aluTwo (Instr.mov w a b).opcode w a b s fun _ y => .ok y

end Sys2Proof.Machine
end

