-- ==== Sys2Proof/Machine/Stack.lean ====
section
/-! DEFINITION. Stack transfer: PUSH and POP (42_control_stack_host R154, R155). -/

namespace Sys2Proof.Machine

/-- The dispatch of PUSH (R154): decrement SP by the width, then store A. -/
def pushValue (P : Params) (s : State) (w : Width) (v : Word) : Except ModelFault Dispatched :=
  match memWrite P s.mem (s.sp - BitVec.ofNat 16 w.bytes) w.bytes v with
  | .error f => .error f
  | .ok m => .ok ⟨(s.setSp (s.sp - BitVec.ofNat 16 w.bytes)).setMem m, 0, false⟩

/-- PUSH A (R154). -/
def execPush (w : Width) (a : Operand) (s : State) : Result :=
  cycleOne params (Instr.push w a).opcode w a s fun t ra => pushValue params t w ra.val

/-- The dispatch of POP (R155): load from SP, then increment SP by the width; the value is the result. -/
def popValue (P : Params) (s : State) (w : Width) : Except ModelFault Dispatched :=
  match memRead P s.mem s.sp w.bytes with
  | .error f => .error f
  | .ok v => .ok ⟨s.setSp (s.sp + BitVec.ofNat 16 w.bytes), v, false⟩

/-- POP A (R155); the commit follows the increment of SP (R257). -/
def execPop (w : Width) (a : Operand) (s : State) : Result :=
  cycleOne params (Instr.pop w a).opcode w a s fun t _ => popValue params t w

end Sys2Proof.Machine
end

