-- ==== Sys2Proof/Machine/Unassigned.lean ====
section
/-! DEFINITION. The unassigned opcode numbers 50 to 63: operand-consuming no-ops (30_encoding R84, 42_control_stack_host R164). -/

namespace Sys2Proof.Machine

/-- An opcode number to which no operation is assigned: its operands are resolved and advanced over, and its result
is 0, which the writeback mux would commit only inside the result band (R84, R164). -/
def noOperation (op : BitVec 6) (w : Width) (a b : Operand) (s : State) : Result :=
  aluTwo op w a b s fun _ _ => .ok 0

/-- Opcode number 50 (R164). -/
def execUnassigned50 (w : Width) (a b : Operand) (s : State) : Result :=
  noOperation (Instr.unassigned50 w a b).opcode w a b s

/-- Opcode number 51 (R164). -/
def execUnassigned51 (w : Width) (a b : Operand) (s : State) : Result :=
  noOperation (Instr.unassigned51 w a b).opcode w a b s

/-- Opcode number 52 (R164). -/
def execUnassigned52 (w : Width) (a b : Operand) (s : State) : Result :=
  noOperation (Instr.unassigned52 w a b).opcode w a b s

/-- Opcode number 53 (R164). -/
def execUnassigned53 (w : Width) (a b : Operand) (s : State) : Result :=
  noOperation (Instr.unassigned53 w a b).opcode w a b s

/-- Opcode number 54 (R164). -/
def execUnassigned54 (w : Width) (a b : Operand) (s : State) : Result :=
  noOperation (Instr.unassigned54 w a b).opcode w a b s

/-- Opcode number 55 (R164). -/
def execUnassigned55 (w : Width) (a b : Operand) (s : State) : Result :=
  noOperation (Instr.unassigned55 w a b).opcode w a b s

/-- Opcode number 56 (R164). -/
def execUnassigned56 (w : Width) (a b : Operand) (s : State) : Result :=
  noOperation (Instr.unassigned56 w a b).opcode w a b s

/-- Opcode number 57 (R164). -/
def execUnassigned57 (w : Width) (a b : Operand) (s : State) : Result :=
  noOperation (Instr.unassigned57 w a b).opcode w a b s

/-- Opcode number 58 (R164). -/
def execUnassigned58 (w : Width) (a b : Operand) (s : State) : Result :=
  noOperation (Instr.unassigned58 w a b).opcode w a b s

/-- Opcode number 59 (R164). -/
def execUnassigned59 (w : Width) (a b : Operand) (s : State) : Result :=
  noOperation (Instr.unassigned59 w a b).opcode w a b s

/-- Opcode number 60 (R164). -/
def execUnassigned60 (w : Width) (a b : Operand) (s : State) : Result :=
  noOperation (Instr.unassigned60 w a b).opcode w a b s

/-- Opcode number 61 (R164). -/
def execUnassigned61 (w : Width) (a b : Operand) (s : State) : Result :=
  noOperation (Instr.unassigned61 w a b).opcode w a b s

/-- Opcode number 62 (R164). -/
def execUnassigned62 (w : Width) (a b : Operand) (s : State) : Result :=
  noOperation (Instr.unassigned62 w a b).opcode w a b s

/-- Opcode number 63 (R164). -/
def execUnassigned63 (w : Width) (a b : Operand) (s : State) : Result :=
  noOperation (Instr.unassigned63 w a b).opcode w a b s

end Sys2Proof.Machine
end

