-- ==== Sys2Proof/Machine/Dispatch.lean ====
section
/-! DEFINITION. `exec`: one arm per constructor of Instr, each one direct call of its meaning. The state is that at
the start of the cycle, PC at the opcode byte. -/

namespace Sys2Proof.Machine

def exec (i : Instr) (s : State) : Host.Outcome State Fault Refusal :=
  match i with
  | .nop mode => Sys2Proof.Machine.execNop mode s
  | .ret mode => Sys2Proof.Machine.execRet mode s
  | .jmp w a => Sys2Proof.Machine.execJmp w a s
  | .call w a => Sys2Proof.Machine.execCall w a s
  | .push w a => Sys2Proof.Machine.execPush w a s
  | .brk w a => Sys2Proof.Machine.execBrk w a s
  | .int w a => Sys2Proof.Machine.execInt w a s
  | .jz w a => Sys2Proof.Machine.execJz w a s
  | .snz w a => Sys2Proof.Machine.execSnz w a s
  | .jnz w a => Sys2Proof.Machine.execJnz w a s
  | .sz w a => Sys2Proof.Machine.execSz w a s
  | .inc w a => Sys2Proof.Machine.execInc w a s
  | .dec w a => Sys2Proof.Machine.execDec w a s
  | .not w a => Sys2Proof.Machine.execNot w a s
  | .neg w a => Sys2Proof.Machine.execNeg w a s
  | .bswap w a => Sys2Proof.Machine.execBswap w a s
  | .pop w a => Sys2Proof.Machine.execPop w a s
  | .add w a b => Sys2Proof.Machine.execAdd w a b s
  | .sub w a b => Sys2Proof.Machine.execSub w a b s
  | .mul w a b => Sys2Proof.Machine.execMul w a b s
  | .div w a b => Sys2Proof.Machine.execDiv w a b s
  | .and w a b => Sys2Proof.Machine.execAnd w a b s
  | .nand w a b => Sys2Proof.Machine.execNand w a b s
  | .or w a b => Sys2Proof.Machine.execOr w a b s
  | .nor w a b => Sys2Proof.Machine.execNor w a b s
  | .xor w a b => Sys2Proof.Machine.execXor w a b s
  | .bset w a b => Sys2Proof.Machine.execBset w a b s
  | .bclr w a b => Sys2Proof.Machine.execBclr w a b s
  | .shl w a b => Sys2Proof.Machine.execShl w a b s
  | .shr w a b => Sys2Proof.Machine.execShr w a b s
  | .rol w a b => Sys2Proof.Machine.execRol w a b s
  | .ror w a b => Sys2Proof.Machine.execRor w a b s
  | .xchg w a b => Sys2Proof.Machine.execXchg w a b s
  | .mov w a b => Sys2Proof.Machine.execMov w a b s
  | .je w a b => Sys2Proof.Machine.execJe w a b s
  | .sne w a b => Sys2Proof.Machine.execSne w a b s
  | .jne w a b => Sys2Proof.Machine.execJne w a b s
  | .se w a b => Sys2Proof.Machine.execSe w a b s
  | .jl w a b => Sys2Proof.Machine.execJl w a b s
  | .sge w a b => Sys2Proof.Machine.execSge w a b s
  | .jge w a b => Sys2Proof.Machine.execJge w a b s
  | .sl w a b => Sys2Proof.Machine.execSl w a b s
  | .jg w a b => Sys2Proof.Machine.execJg w a b s
  | .sle w a b => Sys2Proof.Machine.execSle w a b s
  | .jle w a b => Sys2Proof.Machine.execJle w a b s
  | .sg w a b => Sys2Proof.Machine.execSg w a b s
  | .jbs w a b => Sys2Proof.Machine.execJbs w a b s
  | .sbc w a b => Sys2Proof.Machine.execSbc w a b s
  | .jbc w a b => Sys2Proof.Machine.execJbc w a b s
  | .sbs w a b => Sys2Proof.Machine.execSbs w a b s
  | .unassigned50 w a b => Sys2Proof.Machine.execUnassigned50 w a b s
  | .unassigned51 w a b => Sys2Proof.Machine.execUnassigned51 w a b s
  | .unassigned52 w a b => Sys2Proof.Machine.execUnassigned52 w a b s
  | .unassigned53 w a b => Sys2Proof.Machine.execUnassigned53 w a b s
  | .unassigned54 w a b => Sys2Proof.Machine.execUnassigned54 w a b s
  | .unassigned55 w a b => Sys2Proof.Machine.execUnassigned55 w a b s
  | .unassigned56 w a b => Sys2Proof.Machine.execUnassigned56 w a b s
  | .unassigned57 w a b => Sys2Proof.Machine.execUnassigned57 w a b s
  | .unassigned58 w a b => Sys2Proof.Machine.execUnassigned58 w a b s
  | .unassigned59 w a b => Sys2Proof.Machine.execUnassigned59 w a b s
  | .unassigned60 w a b => Sys2Proof.Machine.execUnassigned60 w a b s
  | .unassigned61 w a b => Sys2Proof.Machine.execUnassigned61 w a b s
  | .unassigned62 w a b => Sys2Proof.Machine.execUnassigned62 w a b s
  | .unassigned63 w a b => Sys2Proof.Machine.execUnassigned63 w a b s

end Sys2Proof.Machine
end

