-- ==== Sys2Proof/Machine/Step.lean ====
section
/-! DEFINITION. One step: one call of the engine (41_cycle R131, R141, R142). -/

namespace Sys2Proof.Machine

/-- One cycle. A faulted state has none (R142), nor has a run the host has ended (R255); else the instruction at PC is
fetched, decoded and executed. -/
def step (s : State) : Host.Outcome State Fault Refusal :=
  match s.faulted with
  | some (f, pc) => .fault (.faulted f pc)
  | none =>
    match s.stopped with
    | some e => .fault (.stopped e)
    | none =>
      match fetchInstr s with
      | .ok i => exec i s
      | .error e => undecoded s e

/-- The state with one instruction stored where the next step fetches it (log 8). -/
def State.withFetchWord (s : State) (nbits w : Nat) : State := placeWord s nbits w

end Sys2Proof.Machine
end

