-- ==== Sys2Proof/Machine/Parametric.lean ====
section
/-! DEFINITION. The machine for any parameters (00_scope R8): one cycle of 41_cycle R141, written as the spec writes it,
step by step, with the arity of an opcode number read from its band, its operation from `opcodeMap`, and every operand
read from memory when it is resolved and again when it is committed to. With the decided parameters it is the machine of
Step.lean (Laws/Parametric.lean, `step_eq_stepWith`). -/

namespace Sys2Proof.Machine

/-- `Resolve(ip0, off, w)` (40_operands R101) on the encoding in memory. -/
def resolveAt (P : Params) (s : State) (ip0 : Addr) (off : Nat) (w : Width) : Except ModelFault Resolved :=
  resolve P s ip0 off w (operandAt P s.mem (ip0 + BitVec.ofNat 16 off) w)

/-- `Commit(ip0, off, w, v)` (40_operands R113, R121) on the encoding in memory. Answers the state and whether PC is
written. -/
def commitAt (P : Params) (s : State) (ip0 : Addr) (off : Nat) (w : Width) (v : Word) :
    Except ModelFault (State × Bool) :=
  match commitTo P s ip0 off w v (operandAt P s.mem (ip0 + BitVec.ofNat 16 off) w) with
  | .error f => .error f
  | .ok t => .ok (t, writesPc (operandAt P s.mem (ip0 + BitVec.ofNat 16 off) w))

/-- An operand that the arity does not select: value 0, length 0 (41_cycle R134). -/
def unselected : Resolved := ⟨0, 0, none⟩

/-- Step 3 (R134): the operands the arity selects, A at offset 0, B after A's bytes. -/
def resolveSelected (P : Params) (s : State) (w : Width) (n : Nat) : Except ModelFault (Resolved × Resolved) :=
  match n with
  | 0 => .ok (unselected, unselected)
  | 1 =>
    match resolveAt P s s.pc 0 w with
    | .error f => .error f
    | .ok ra => .ok (ra, unselected)
  | _ + 2 =>
    match resolveAt P s s.pc 0 w with
    | .error f => .error f
    | .ok ra =>
      match resolveAt P s s.pc ra.len w with
      | .error f => .error f
      | .ok rb => .ok (ra, rb)

/-- Step 4 of the operations without an operand (R135). -/
def dispatchZero (P : Params) (t : State) : ZeroOp → Except ModelFault Dispatched
  | .nop => .ok ⟨t, 0, false⟩
  | .ret => returnFrom P t

/-- Step 4 of the operations on one operand (R135), `consumed` the bytes of all operands. BRK and INT do nothing but
escape, which `cycleWith` does. -/
def dispatchOne (P : Params) (w : Width) (consumed : Nat) (t : State) (a : Word) : OneOp → Except ModelFault Dispatched
  | .jmp => .ok (jumpTo t a)
  | .call => callTo P t consumed a
  | .push => pushValue P t w a
  | .brk => .ok ⟨t, 0, false⟩
  | .int => .ok ⟨t, 0, false⟩
  | .jz => skipOnly t (.ok (condNonzero a))
  | .snz => skipOnly t (.ok (condNonzero a))
  | .jnz => skipOnly t (.ok (condZero a))
  | .sz => skipOnly t (.ok (condZero a))
  | .inc => resultOnly t (.ok (aluInc a))
  | .dec => resultOnly t (.ok (aluDec a))
  | .not => resultOnly t (.ok (aluNot a))
  | .neg => resultOnly t (.ok (aluNeg a))
  | .bswap => resultOnly t (.ok (aluBswap w a))
  | .pop => popValue P t w

/-- Step 4 of the operations on two operands (R135). XCHG only commits (R137). -/
def dispatchTwo (w : Width) (t : State) (a b : Word) : TwoOp → Except ModelFault Dispatched
  | .add => resultOnly t (.ok (aluAdd a b))
  | .sub => resultOnly t (.ok (aluSub a b))
  | .mul => resultOnly t (.ok (aluMul a b))
  | .div => resultOnly t (aluDiv a b)
  | .and => resultOnly t (.ok (aluAnd a b))
  | .nand => resultOnly t (.ok (aluNand a b))
  | .or => resultOnly t (.ok (aluOr a b))
  | .nor => resultOnly t (.ok (aluNor a b))
  | .xor => resultOnly t (.ok (aluXor a b))
  | .bset => resultOnly t (aluBset a b)
  | .bclr => resultOnly t (aluBclr a b)
  | .shl => resultOnly t (aluShl a b)
  | .shr => resultOnly t (aluShr a b)
  | .rol => resultOnly t (.ok (aluRol w a b))
  | .ror => resultOnly t (.ok (aluRor w a b))
  | .xchg => .ok ⟨t, 0, false⟩
  | .mov => resultOnly t (.ok b)
  | .je => skipOnly t (.ok (condNotEqual a b))
  | .sne => skipOnly t (.ok (condNotEqual a b))
  | .jne => skipOnly t (.ok (condEqual a b))
  | .se => skipOnly t (.ok (condEqual a b))
  | .jl => skipOnly t (.ok (condGreaterEqual a b))
  | .sge => skipOnly t (.ok (condGreaterEqual a b))
  | .jge => skipOnly t (.ok (condLess a b))
  | .sl => skipOnly t (.ok (condLess a b))
  | .jg => skipOnly t (.ok (condLessEqual a b))
  | .sle => skipOnly t (.ok (condLessEqual a b))
  | .jle => skipOnly t (.ok (condGreater a b))
  | .sg => skipOnly t (.ok (condGreater a b))
  | .jbs => skipOnly t (condBitClear a b)
  | .sbc => skipOnly t (condBitClear a b)
  | .jbc => skipOnly t (condBitSet a b)
  | .sbs => skipOnly t (condBitSet a b)

/-- Step 4 (R135): the operation of the number on A, B and w; an unassigned number does nothing, with result 0 (R164). -/
def dispatch (P : Params) (o : Option Operation) (w : Width) (consumed : Nat) (t : State) (a b : Word) :
    Except ModelFault Dispatched :=
  match o with
  | none => .ok ⟨t, 0, false⟩
  | some (.zero z) => dispatchZero P t z
  | some (.one z) => dispatchOne P w consumed t a z
  | some (.two z) => dispatchTwo w t a b z

/-- Step 5 (R136 to R138): in the result band and not suppressed, XCHG commits twice and every other operation, or none,
commits its result. -/
def commitStage (P : Params) (op : BitVec 6) (ip0 : Addr) (w : Width) (ra rb : Resolved) (suppress : Bool)
    (d : Dispatched) : Except ModelFault (State × Bool) :=
  if inResultBand P op && !suppress then
    if P.operation op = some (.two .xchg) then
      match commitAt P d.st ip0 0 w rb.val with
      | .error f => .error f
      | .ok (t, p) =>
        match commitAt P t ip0 ra.len w ra.val with
        | .error f => .error f
        | .ok (u, q) => .ok (u, d.pcWritten || p || q)
    else
      match commitAt P d.st ip0 0 w d.result with
      | .error f => .error f
      | .ok (t, p) => .ok (t, d.pcWritten || p)
  else .ok (d.st, d.pcWritten)

/-- Steps 4 to 6 and the end of the cycle, from the state `t` in which dispatch begins. -/
def afterResolve (P : Params) (op : BitVec 6) (ip0 : Addr) (w : Width) (ra rb : Resolved) (suppress : Bool) (t : State) :
    Except ModelFault State :=
  match dispatch P (P.operation op) w (ra.len + rb.len) t ra.val rb.val with
  | .error f => .error f
  | .ok d =>
    match commitStage P op ip0 w ra rb suppress d with
    | .error f => .error f
    | .ok (u, pcWritten) => .ok (finish P (ra.len + rb.len) pcWritten u)

/-- The hook through which an operation escapes: BRK and INT (R162, R163). -/
def escapeKind (o : Option Operation) : Option HostKind :=
  if o = some (.one .brk) then some .breakpoint else if o = some (.one .int) then some .interrupt else none

/-- The cycle of an opcode byte (R133 to R141), from the state at its start. -/
def cycleOfByte (P : Params) (op : BitVec 6) (mode : BitVec 2) (s : State) : Result :=
  if 1 ≤ arity P op ∧ mode = 3 then .next (s.raise (.reservedBitsMode op))
  else
    match resolveSelected P s.fetched (widthOf mode) (arity P op) with
    | .error f => .next (s.raise f)
    | .ok (ra, rb) =>
      match escapeKind (P.operation op) with
      | some kind =>
        answerEscape kind ra.val s (afterResolve P op s.fetched.pc (widthOf mode) ra rb s.skipActive)
      | none => settle s (afterResolve P op s.fetched.pc (widthOf mode) ra rb s.skipActive s.fetched)

/-- `Cycle(s)` of R141: fetch the opcode byte (R132) and run it. -/
def cycleWith (P : Params) (s : State) : Result :=
  cycleOfByte P (opcodeField (s.mem.read s.pc)) (modeField (s.mem.read s.pc)) s

/-- One step under the parameters `P`: no cycle on a faulted state (R142) or a stopped run (R255). -/
def stepWith (P : Params) (s : State) : Result :=
  match s.faulted with
  | some (f, pc) => .fault (.faulted f pc)
  | none =>
    match s.stopped with
    | some e => .fault (.stopped e)
    | none => cycleWith P s

end Sys2Proof.Machine
end

