-- ==== Sys2Proof/Machine/HostInterface.lean ====
section
/-! DEFINITION. The block's boundary as the host uses it between cycles (70_reset_and_hazards R250 to R255, R264):
init, load, registerHook, step with its three outcomes, and reads and writes of any state element. -/

namespace Sys2Proof.Machine

/-- `init` (R250) under the parameters `P`: every piece of the machine's state takes its value of R37, `faulted` among
them. What the host has already seen and its queued answers are the host's and stay (log 10). -/
def State.initializeWith (P : Params) (s : State) : State :=
  { State.resetWith P with events := s.events, hostAnswers := s.hostAnswers }

/-- `init` with the decided parameters. -/
def State.initialize (s : State) : State := s.initializeWith params

/-- `load(offset, bytes)` (R252): copied in increasing order, the addresses wrapping. -/
def State.load (s : State) (offset : Addr) (bytes : List Byte) : State :=
  s.setMem (s.mem.writeBytes offset bytes)

/-- Write the slot of one hook, a state element as any other (R33, R264): installed, or not installed. -/
def State.writeHook (s : State) (kind : HostKind) (installed : Bool) : State :=
  match kind with
  | .breakpoint => { s with hookBrk := installed }
  | .interrupt => { s with hookInt := installed }

/-- `registerHook(kind)` (R253): sets `hookInstalled.kind`. -/
def State.registerHook (s : State) (kind : HostKind) : State := s.writeHook kind true

/-- What the host may do between cycles (R65, R264): init, load, registerHook, and a write of any state element. The
record `faulted` is not the block's state and only init clears it (R34, R250). -/
inductive HostAction where
  | init
  | load (offset : Addr) (bytes : List Byte)
  | registerHook (kind : HostKind)
  | writeMem (addr : Addr) (value : Byte)
  | writeReg (slot : Fin 35) (value : Byte)
  | writePc (value : Addr)
  | writeSp (value : Addr)
  | writeSkips (skipNext skipActive : Bool)
  | writeHook (kind : HostKind) (installed : Bool)
  /-- the host settles how it will answer the escapes to come (log 3) -/
  | queueAnswers (answers : List HostAnswer)
  deriving DecidableEq, Repr

/-- One action of the host on the state between two cycles (R65, R264). -/
def State.hostAct (s : State) : HostAction → State
  | .init => s.initialize
  | .load offset bytes => s.load offset bytes
  | .registerHook kind => s.registerHook kind
  | .writeMem a v => s.setMem (s.mem.write a v)
  | .writeReg i v => s.setRegs (s.regs.set i v)
  | .writePc a => s.setPc a
  | .writeSp a => s.setSp a
  | .writeSkips n x => s.setSkips n x
  | .writeHook kind installed => s.writeHook kind installed
  | .queueAnswers as => { s with hostAnswers := s.hostAnswers ++ as }

/-- What the host's call of `step` returns (R255). -/
inductive CycleReport where
  /-- the cycle ran to the end of step 6 -/
  | completed
  /-- a host escape was answered Stop -/
  | stopped (event : HostEvent)
  /-- a model fault occurred -/
  | faulted (fault : ModelFault) (pcAtFetch : Addr)
  /-- no cycle ran, because the state had faulted or its run had been stopped (R142) -/
  | noCycle
  deriving DecidableEq, Repr

/-- The report on the state a cycle ended in. -/
def reportOf (t : State) : CycleReport :=
  match t.faulted with
  | some (f, pc) => .faulted f pc
  | none =>
    match t.stopped with
    | some e => .stopped e
    | none => .completed

/-- One call of `step` by the host (R255) under the parameters `P`: the state it leaves and what it returns. -/
def hostStepWith (P : Params) (s : State) : State × CycleReport :=
  match stepWith P s with
  | .next t => (t, reportOf t)
  | .fault _ => (s, .noCycle)
  | .refused _ => (s, .noCycle)

/-- The host's loop (R255) under the parameters `P`: it calls again while the outcome is Completed, here at most `fuel`
times. -/
def hostRunWith (P : Params) : Nat → State → State × CycleReport
  | 0, s => (s, .completed)
  | fuel + 1, s =>
    match hostStepWith P s with
    | (t, .completed) => hostRunWith P fuel t
    | (t, .stopped e) => (t, .stopped e)
    | (t, .faulted f pc) => (t, .faulted f pc)
    | (t, .noCycle) => (t, .noCycle)

/-- One call of `step` by the host, with the decided parameters. -/
def hostStep (s : State) : State × CycleReport := hostStepWith params s

/-- The host's loop, with the decided parameters. -/
def hostRun (fuel : Nat) (s : State) : State × CycleReport := hostRunWith params fuel s

end Sys2Proof.Machine
end

