-- ==== Sys2Proof/Safety.lean ====
section
/-! DEFINITION. What claims about runs say: the invariant of the states between cycles, and when a run is safe. -/

namespace Sys2Proof.Machine

/-- A recorded fault names the address the state's PC still holds: model faults are precise (60_exceptions R231). -/
def State.faultPrecise (s : State) : Bool :=
  match s.faulted with
  | none => true
  | some (_, pc) => decide (pc = s.pc)

/-- A stopped run ends with PC at `ip0` of the escaping instruction, whose event is the last one recorded
(70_reset_and_hazards R255). -/
def State.stopPrecise (s : State) : Bool :=
  match s.stopped with
  | none => true
  | some e => decide (s.pc = e.pcAtFetch + 1) && decide (s.events.getLast? = some e)

/-- The invariant of the states between cycles: memory in its one canonical form, `skip_next` false (10_state R30),
a fault or a stop recorded precisely. -/
def State.Inv (s : State) : Bool := s.mem.wf && !s.skipNext && s.faultPrecise && s.stopPrecise

/-- The state can take a cycle: it has not faulted (41_cycle R142) and its run has not been stopped (R255). -/
def State.running (s : State) : Bool := s.faulted.isNone && s.stopped.isNone

/-- No cycle of the first `n` from `s` raises a model fault. -/
def safeFor : Nat → State → Prop
  | 0, _ => True
  | n + 1, s => ∀ t, step s = .next t → t.faulted = none ∧ safeFor n t

end Sys2Proof.Machine
end

