-- ==== Sys2Proof/WellFormed.lean ====
section
/-! DEFINITION. When a term is one that an encoding holds, and when parameters are ones the source allows. Every field of
an instruction but one is as wide in the syntax as in its encoding; the value of a form-3 literal has w bytes
(30_encoding R78). -/

namespace Sys2Proof

/-- A literal fits the w bytes that encode it (R78); every other form fits by its type. -/
def Operand.wf (w : Width) : Operand → Bool
  | .literal _ v => decide (v.toNat < 2 ^ w.bits)
  | .inline _ => true
  | .inlinePtr _ => true
  | .literalPtr _ _ => true
  | .reg _ => true
  | .regPtr _ => true
  | .special _ => true
  | .specialPtr _ => true

/-- An instruction is well formed when each of its operands is. -/
def Instr.wf : Instr → Bool
  | .nop _ => true
  | .ret _ => true
  | .jmp w a => a.wf w
  | .call w a => a.wf w
  | .push w a => a.wf w
  | .brk w a => a.wf w
  | .int w a => a.wf w
  | .jz w a => a.wf w
  | .snz w a => a.wf w
  | .jnz w a => a.wf w
  | .sz w a => a.wf w
  | .inc w a => a.wf w
  | .dec w a => a.wf w
  | .not w a => a.wf w
  | .neg w a => a.wf w
  | .bswap w a => a.wf w
  | .pop w a => a.wf w
  | .add w a b => a.wf w && b.wf w
  | .sub w a b => a.wf w && b.wf w
  | .mul w a b => a.wf w && b.wf w
  | .div w a b => a.wf w && b.wf w
  | .and w a b => a.wf w && b.wf w
  | .nand w a b => a.wf w && b.wf w
  | .or w a b => a.wf w && b.wf w
  | .nor w a b => a.wf w && b.wf w
  | .xor w a b => a.wf w && b.wf w
  | .bset w a b => a.wf w && b.wf w
  | .bclr w a b => a.wf w && b.wf w
  | .shl w a b => a.wf w && b.wf w
  | .shr w a b => a.wf w && b.wf w
  | .rol w a b => a.wf w && b.wf w
  | .ror w a b => a.wf w && b.wf w
  | .xchg w a b => a.wf w && b.wf w
  | .mov w a b => a.wf w && b.wf w
  | .je w a b => a.wf w && b.wf w
  | .sne w a b => a.wf w && b.wf w
  | .jne w a b => a.wf w && b.wf w
  | .se w a b => a.wf w && b.wf w
  | .jl w a b => a.wf w && b.wf w
  | .sge w a b => a.wf w && b.wf w
  | .jge w a b => a.wf w && b.wf w
  | .sl w a b => a.wf w && b.wf w
  | .jg w a b => a.wf w && b.wf w
  | .sle w a b => a.wf w && b.wf w
  | .jle w a b => a.wf w && b.wf w
  | .sg w a b => a.wf w && b.wf w
  | .jbs w a b => a.wf w && b.wf w
  | .sbc w a b => a.wf w && b.wf w
  | .jbc w a b => a.wf w && b.wf w
  | .sbs w a b => a.wf w && b.wf w
  | .unassigned50 w a b => a.wf w && b.wf w
  | .unassigned51 w a b => a.wf w && b.wf w
  | .unassigned52 w a b => a.wf w && b.wf w
  | .unassigned53 w a b => a.wf w && b.wf w
  | .unassigned54 w a b => a.wf w && b.wf w
  | .unassigned55 w a b => a.wf w && b.wf w
  | .unassigned56 w a b => a.wf w && b.wf w
  | .unassigned57 w a b => a.wf w && b.wf w
  | .unassigned58 w a b => a.wf w && b.wf w
  | .unassigned59 w a b => a.wf w && b.wf w
  | .unassigned60 w a b => a.wf w && b.wf w
  | .unassigned61 w a b => a.wf w && b.wf w
  | .unassigned62 w a b => a.wf w && b.wf w
  | .unassigned63 w a b => a.wf w && b.wf w

/-- What the source fixes about the opcode map (30_encoding R83): the three bands are in order, no more than 64 numbers
are listed, every operation lies in the band of its own operand count, INC is the first and MOV the last of the result
band. DESIGN CHOICE (log 15): every operation has one number at most, which R83 does not say (R82 implies it for INC and
MOV). That each operation has its own rule's semantics is the cycle's (Machine/Parametric.lean);
the count of 53 is unaudited, and the reference numbering does not meet it (R85, 90_conflicts C14). -/
def Params.admissible (P : Params) : Bool :=
  decide (P.band1 ≤ P.band2) && decide (P.opcodeMap.length ≤ 64) && decide P.opcodeMap.reduceOption.Nodup &&
    decide (P.opcodeMap[P.resultLo]? = some (some (.one .inc))) &&
    decide (P.opcodeMap[P.resultHi]? = some (some (.two .mov))) &&
    (List.range 64).all fun n =>
      match P.operation (BitVec.ofNat 6 n) with
      | some o => decide (o.operands = arity P (BitVec.ofNat 6 n))
      | none => true

end Sys2Proof
end

