-- ==== Sys2Proof/Certificates/Slice0/Obligations.lean ====
section
/-! DEFINITION. The statements for the provers. `Sys2Proof.Claims` holds the words they are written in: the states a
cycle ends in, spelled out field by field, and the shapes shared by instructions of one kind. -/

namespace Sys2Proof.Claims

open Sys2Proof.Machine

/-! ## The states a cycle ends in -/

/-- The cycle ends (41_cycle R139, R140): PC advances by the operands' bytes, and the skip latch takes `skip_next`. -/
def completed (t : State) (consumed : Nat) : State :=
  { t with pc := t.pc + BitVec.ofNat 16 consumed, skipNext := false, skipActive := t.skipNext }

/-- The cycle raised a model fault (60_exceptions R231): nothing but the record of it is new. -/
def faultedAt (s : State) (f : ModelFault) : State := { s with faulted := some (f, s.pc) }

/-- The state during resolution and dispatch: PC is `ip0` (41_cycle R132). -/
def atIp0 (s : State) : State := { s with pc := s.pc + 1 }

/-- Operand A, at offset 0, resolves to `ra` (41_cycle R134). -/
def readsA (s : State) (w : Width) (a : Operand) (ra : Resolved) : Prop :=
  resolve params (atIp0 s) (s.pc + 1) 0 w a = .ok ra

/-- Operand B, at the offset after A's bytes, resolves to `rb` (41_cycle R134). -/
def readsB (s : State) (w : Width) (ra : Resolved) (b : Operand) (rb : Resolved) : Prop :=
  resolve params (atIp0 s) (s.pc + 1) ra.len w b = .ok rb

/-- Resolving A raises `f`. -/
def failsA (s : State) (w : Width) (a : Operand) (f : ModelFault) : Prop :=
  resolve params (atIp0 s) (s.pc + 1) 0 w a = .error f

/-- Resolving B raises `f`. -/
def failsB (s : State) (w : Width) (ra : Resolved) (b : Operand) (f : ModelFault) : Prop :=
  resolve params (atIp0 s) (s.pc + 1) ra.len w b = .error f

/-- The instruction's first byte holds the opcode number `op` in bits 7 to 2 and its mode in bits 1 and 0 (R71, R85). -/
def hasOpcode (i : Instr) (op : BitVec 6) : Prop :=
  i.opcode = op ∧ (encode params i).head? = some (BitVec.ofNat 8 (op.toNat * 4 + i.mode.toNat))

/-! ## Rules of instructions of one shape

An operand that does not resolve ends every instruction alike, and a suppressed cycle every result-band instruction:
OperandFaultsEndTheCycle and SuppressedCyclesCommitNothing say so once for all. -/

/-- A result-band instruction with result `v`, in a cycle that is not suppressed: the commit through A's destination
succeeds (the resolver has read the same operand in the same state), and the cycle ends (41_cycle R136). -/
def commitsResult (i : Instr) (s : State) (w : Width) (a : Operand) (consumed : Nat) (v : Word) : Prop :=
  s.skipActive = false →
    ∃ t, commitTo params (atIp0 s) (s.pc + 1) 0 w v a = .ok t ∧ exec i s = .next (completed t consumed)

/-- An ALU instruction of arity 1 with opcode number `op` and the result `res` (a natural number, taken mod 2^32). -/
def oneOperandResult (make : Width → Operand → Instr) (op : BitVec 6) (res : Width → Nat → Nat) : Prop :=
  ∀ (w : Width) (a : Operand) (s : State),
    hasOpcode (make w a) op ∧
    (∀ ra, readsA s w a ra → commitsResult (make w a) s w a ra.len (BitVec.ofNat 32 (res w ra.val.toNat)))

/-- An ALU instruction of arity 2 with opcode number `op`, the result `res` and no fault of its own. -/
def twoOperandResult (make : Width → Operand → Operand → Instr) (op : BitVec 6) (res : Width → Nat → Nat → Nat) : Prop :=
  ∀ (w : Width) (a b : Operand) (s : State),
    hasOpcode (make w a b) op ∧
    (∀ ra rb, readsA s w a ra → readsB s w ra b rb →
      commitsResult (make w a b) s w a (ra.len + rb.len) (BitVec.ofNat 32 (res w ra.val.toNat rb.val.toNat)))

/-- An ALU instruction of arity 2 that raises `fault` on the B values that are `bad`, and else has the result `res`. The
fault comes before the writeback, so a suppressed cycle raises it too. -/
def twoOperandResultOrFault (make : Width → Operand → Operand → Instr) (op : BitVec 6) (bad : Nat → Prop)
    (fault : Word → ModelFault) (res : Nat → Nat → Nat) : Prop :=
  ∀ (w : Width) (a b : Operand) (s : State),
    hasOpcode (make w a b) op ∧
    (∀ ra rb, readsA s w a ra → readsB s w ra b rb → bad rb.val.toNat →
      exec (make w a b) s = .next (faultedAt s (fault rb.val))) ∧
    (∀ ra rb, readsA s w a ra → readsB s w ra b rb → ¬ bad rb.val.toNat →
      commitsResult (make w a b) s w a (ra.len + rb.len) (BitVec.ofNat 32 (res ra.val.toNat rb.val.toNat)))

/-- A conditional of arity 1 with condition `cond` (44_conditional R200). -/
def oneOperandTest (make : Width → Operand → Instr) (op : BitVec 6) (cond : Nat → Prop) : Prop :=
  ∀ (w : Width) (a : Operand) (s : State),
    hasOpcode (make w a) op ∧
    (∀ ra, readsA s w a ra → cond ra.val.toNat →
      exec (make w a) s = .next (completed { atIp0 s with skipNext := true } ra.len)) ∧
    (∀ ra, readsA s w a ra → ¬ cond ra.val.toNat → exec (make w a) s = .next (completed (atIp0 s) ra.len))

/-- A comparison, a conditional of arity 2, with condition `cond` (44_conditional R200). -/
def twoOperandCompare (make : Width → Operand → Operand → Instr) (op : BitVec 6) (cond : Nat → Nat → Prop) : Prop :=
  ∀ (w : Width) (a b : Operand) (s : State),
    hasOpcode (make w a b) op ∧
    (∀ ra rb, readsA s w a ra → readsB s w ra b rb → cond ra.val.toNat rb.val.toNat →
      exec (make w a b) s = .next (completed { atIp0 s with skipNext := true } (ra.len + rb.len))) ∧
    (∀ ra rb, readsA s w a ra → readsB s w ra b rb → ¬ cond ra.val.toNat rb.val.toNat →
      exec (make w a b) s = .next (completed (atIp0 s) (ra.len + rb.len)))

/-- A bit test: the condition is that bit B of A is `bit`; an index of 32 or more raises BitIndexRange (R217 to R220). -/
def bitIndexTest (make : Width → Operand → Operand → Instr) (op : BitVec 6) (bit : Nat) : Prop :=
  ∀ (w : Width) (a b : Operand) (s : State),
    hasOpcode (make w a b) op ∧
    (∀ ra rb, readsA s w a ra → readsB s w ra b rb → 32 ≤ rb.val.toNat →
      exec (make w a b) s = .next (faultedAt s (.bitIndexRange rb.val))) ∧
    (∀ ra rb, readsA s w a ra → readsB s w ra b rb → rb.val.toNat < 32 →
      ra.val.toNat / 2 ^ rb.val.toNat % 2 = bit →
      exec (make w a b) s = .next (completed { atIp0 s with skipNext := true } (ra.len + rb.len))) ∧
    (∀ ra rb, readsA s w a ra → readsB s w ra b rb → rb.val.toNat < 32 →
      ra.val.toNat / 2 ^ rb.val.toNat % 2 ≠ bit →
      exec (make w a b) s = .next (completed (atIp0 s) (ra.len + rb.len)))

/-! ## Groups of instructions -/

/-- The ALU instructions of arity 1. -/
def aluOneMakers : List (Width → Operand → Instr) := [.inc, .dec, .not, .neg, .bswap]

/-- The ALU instructions of arity 2 with one commit and no fault of their own. -/
def aluTotalMakers : List (Width → Operand → Operand → Instr) :=
  [.add, .sub, .mul, .and, .nand, .or, .nor, .xor, .rol, .ror, .mov]

/-- The ALU instructions that raise a fault on B of 32 or more. -/
def aluRangedMakers : List (Width → Operand → Operand → Instr) := [.bset, .bclr, .shl, .shr]

/-- The ALU instructions of arity 2 with one commit. -/
def aluTwoMakers : List (Width → Operand → Operand → Instr) := .div :: (aluRangedMakers ++ aluTotalMakers)

/-- The instructions that take B as a bit index. -/
def bitIndexMakers : List (Width → Operand → Operand → Instr) := [.bset, .bclr, .jbs, .sbc, .jbc, .sbs]

/-- The conditionals of arity 1. -/
def testOneMakers : List (Width → Operand → Instr) := [.jz, .snz, .jnz, .sz]

/-- The conditionals of arity 2. -/
def testTwoMakers : List (Width → Operand → Operand → Instr) :=
  [.je, .sne, .jne, .se, .jl, .sge, .jge, .sl, .jg, .sle, .jle, .sg, .jbs, .sbc, .jbc, .sbs]

/-- The unassigned opcode numbers, each with its constructor. -/
def unassignedMakers : List (BitVec 6 × (Width → Operand → Operand → Instr)) :=
  [(50, .unassigned50), (51, .unassigned51), (52, .unassigned52), (53, .unassigned53), (54, .unassigned54),
   (55, .unassigned55), (56, .unassigned56), (57, .unassigned57), (58, .unassigned58), (59, .unassigned59),
   (60, .unassigned60), (61, .unassigned61), (62, .unassigned62), (63, .unassigned63)]

/-- Every instruction of arity 1. -/
def oneOperandMakers : List (Width → Operand → Instr) :=
  aluOneMakers ++ testOneMakers ++ [.jmp, .call, .push, .brk, .int, .pop]

/-- Every instruction of arity 2. -/
def twoOperandMakers : List (Width → Operand → Operand → Instr) :=
  aluTwoMakers ++ testTwoMakers ++ [.xchg] ++ unassignedMakers.map Prod.snd

/-- A host escape is BRK or INT. -/
def isEscape : Instr → Prop
  | .brk _ _ => True
  | .int _ _ => True
  | _ => False

/-! ## Frames -/

/-- `x` is none of the `n` bytes from `ea` on. -/
def outside (ea : Addr) (n : Nat) (x : Addr) : Prop := ∀ k, k < n → x ≠ ea + BitVec.ofNat 16 k

/-- What no instruction but the host escapes touches: the hooks, the stop record, the events and the answers. -/
def hostSideKept (s t : State) : Prop :=
  t.hookBrk = s.hookBrk ∧ t.hookInt = s.hookInt ∧ t.stopped = s.stopped ∧ t.events = s.events ∧
    t.hostAnswers = s.hostAnswers

/-- The skip flags at the end of a cycle that set no `skip_next`. -/
def skipsLatched (s t : State) : Prop :=
  t.faulted = s.faulted → s.faulted = none → t.skipNext = false ∧ t.skipActive = s.skipNext

/-- What a commit through the destination `a` may change, from `u` (where the commit's address is computed) to `t`:
the w bytes at the address the committer stores to, the w register bytes of a register destination, SP of an SP
destination, and nothing else. -/
def destinationFrame (u t : State) (ip0 : Addr) (off : Nat) (w : Width) (a : Operand) : Prop :=
  (∀ ea, pointerAddr params u ip0 off a = .ok (some ea) →
    ∀ x, outside ea w.bytes x → t.mem.read x = u.mem.read x) ∧
  (pointerAddr params u ip0 off a = .ok none → ∀ x, t.mem.read x = u.mem.read x) ∧
  (∀ j, (∀ c, a = .reg c → j < c.toNat ∨ c.toNat + w.bytes ≤ j) → regByte t.regs j = regByte u.regs j) ∧
  (a ≠ .special 1 → t.sp = u.sp)

end Sys2Proof.Claims

open Sys2Proof Sys2Proof.Machine Sys2Proof.Claims

/-! ## Encoding and decoding -/

/-- Decoding the encoding of a well-formed instruction gives it back, and leaves the bytes after it (R70, R71, R76 to
R80). -/
def Obligations.DecodeOfEncodeIsTheInstruction : Prop :=
  ∀ (i : Instr) (rest : List Byte), i.wf = true → decode params (encode params i ++ rest) = .ok (i, rest)

/-- Whatever bytes decode, the decoded instruction is well formed and its encoding is exactly the bytes consumed: no
two encodings mean one instruction, the don't-care bits included (R77). -/
def Obligations.EncodeOfDecodeIsTheBytes : Prop :=
  ∀ (bs rest : List Byte) (i : Instr), decode params bs = .ok (i, rest) → i.wf = true ∧ encode params i ++ rest = bs

/-- The length of an encoding is between 1 and 11 bytes, and eleven bytes always hold a whole instruction: the decoder
never runs out of them (R80). -/
def Obligations.ElevenBytesHoldAnInstruction : Prop :=
  (∀ i : Instr, 1 ≤ (encode params i).length ∧ (encode params i).length ≤ 11) ∧
  (∀ bs : List Byte, 11 ≤ bs.length → decode params bs ≠ .error .truncated)

/-- A few words of the spec's examples, byte for byte: `14 2A` (R162), `44 80 00 03` (R176), `09 00 01 00` (R151),
`85 40 01 00 84` (program P3), `05` (R153). -/
def Obligations.SpecExampleWordsDecode : Prop :=
  decode params [0x14, 0x2A] = .ok (.brk .w8 (.inline 10), []) ∧
  decode params [0x44, 0x80, 0x00, 0x03] = .ok (.add .w8 (.reg 0) (.literal 0 3), []) ∧
  decode params [0x09, 0x00, 0x01, 0x00] = .ok (.jmp .w16 (.literal 0 0x100), []) ∧
  decode params [0x85, 0x40, 0x01, 0x00, 0x84] = .ok (.mov .w16 (.literalPtr 0 0x100) (.reg 4), []) ∧
  decode params [0x05] = .ok (.ret 1, [])

/-- The arity of the decoded instruction is that of its number's band, 0 below 2, 1 below 17, else 2, and its number
is the opcode byte's bits 7 to 2 (R71, R81; the boundaries are the spec's decision D18). -/
def Obligations.ArityIsReadFromTheBands : Prop :=
  ∀ (b : Byte) (rest rest' : List Byte) (i : Instr), decode params (b :: rest) = .ok (i, rest') →
    i.opcode.toNat = b.toNat / 4 ∧
    (b.toNat / 4 < 2 → rest' = rest) ∧
    (2 ≤ b.toNat / 4 → b.toNat / 4 < 17 → ∃ w a, i.operandBytes params = encodeOperand params w a) ∧
    (17 ≤ b.toNat / 4 →
      ∃ w a c, i.operandBytes params = encodeOperand params w a ++ encodeOperand params w c)

/-- Bits-mode 3 on an opcode of arity 1 or 2 raises ReservedBitsMode before any operand is read; on NOP and RET the mode
is ignored (R72, the spec's decision D2). -/
def Obligations.ReservedBitsModeFaults : Prop :=
  (∀ s : State, s.faulted = none → s.stopped = none → (s.mem.read s.pc).toNat % 4 = 3 →
    8 ≤ (s.mem.read s.pc).toNat →
      step s = .next (faultedAt s (.reservedBitsMode (BitVec.ofNat 6 ((s.mem.read s.pc).toNat / 4))))) ∧
  (∀ (m m' : BitVec 2) (s : State), exec (.nop m) s = exec (.nop m') s ∧ exec (.ret m) s = exec (.ret m') s)

/-! ## The step -/

/-- A step runs the decoded instruction: when the bytes at PC decode to `i`, the step is `exec i` and nothing around
it (R131, R141); and so is the cycle that R141 writes out, at the decided parameters (R8). -/
def Obligations.StepRunsTheDecodedInstruction : Prop :=
  ∀ (s : State) (i : Instr) (rest : List Byte), s.faulted = none → s.stopped = none →
    decode params (s.mem.readBytes s.pc 11) = .ok (i, rest) →
    i.wf = true ∧ step s = exec i s ∧ stepWith params s = exec i s

/-- When the encoding of a well-formed instruction lies in memory at PC, the step executes it: fetch, decoder and
encoder agree over the whole instruction set. -/
def Obligations.StepRunsTheEncodedInstruction : Prop :=
  ∀ (s : State) (i : Instr), s.faulted = none → s.stopped = none → i.wf = true →
    s.mem.readBytes s.pc (encode params i).length = encode params i → step s = exec i s

/-- A faulted state has no cycle (R142, decision D28), nor has a stopped run (R255, D27); every other state has one, and
the step never refuses, whatever the parameters and the opcode map (R8, R84). -/
def Obligations.EveryRunningStateTakesACycle : Prop :=
  (∀ s f pc, s.faulted = some (f, pc) → step s = .fault (.faulted f pc)) ∧
  (∀ s e, s.faulted = none → s.stopped = some e → step s = .fault (.stopped e)) ∧
  (∀ s, s.faulted = none → s.stopped = none → ∃ t, step s = .next t) ∧
  (∀ P s, s.faulted = none → s.stopped = none → ∃ t, stepWith P s = .next t)

/-! ## Memory and registers -/

/-- MemRead is big-endian for 1, 2 and 4 bytes (R51); MemWrite stores byte i of the low n bytes at a + i, the highest
first, so that a read of the same width gives the value back, and every other byte reads as before (R52). -/
def Obligations.MemoryPrimitivesAreBigEndian : Prop :=
  (∀ (m : Memory) (a : Addr),
    memRead params m a 1 = .ok (BitVec.ofNat 32 (m.read a).toNat) ∧
    (a.toNat + 1 ≤ 0xFFFF →
      memRead params m a 2 = .ok (BitVec.ofNat 32 ((m.read a).toNat * 2 ^ 8 + (m.read (a + 1)).toNat))) ∧
    (a.toNat + 3 ≤ 0xFFFF →
      memRead params m a 4 = .ok (BitVec.ofNat 32 ((m.read a).toNat * 2 ^ 24 + (m.read (a + 1)).toNat * 2 ^ 16 +
        (m.read (a + 2)).toNat * 2 ^ 8 + (m.read (a + 3)).toNat)))) ∧
  (∀ (m : Memory) (a : Addr) (n : Nat) (v : Word), m.wf = true → n = 1 ∨ n = 2 ∨ n = 4 → a.toNat + n ≤ 65536 →
    ∃ m', memWrite params m a n v = .ok m' ∧ m'.wf = true ∧
      (∀ i, i < n → (m'.read (a + BitVec.ofNat 16 i)).toNat = v.toNat / 2 ^ (8 * (n - 1 - i)) % 2 ^ 8) ∧
      memRead params m' a n = .ok (BitVec.ofNat 32 (v.toNat % 2 ^ (8 * n))) ∧
      (∀ x, outside a n x → m'.read x = m.read x))

/-- An access that would pass 0xFFFF raises CrossTopAccess and does not happen; with the other policy byte i of the
access is at (a + i) mod 2^16 (R54, the spec's decision D11). -/
def Obligations.CrossTopAccessFaultsOrWraps : Prop :=
  (∀ (m : Memory) (a : Addr) (n : Nat) (v : Word), 0xFFFF < a.toNat + n - 1 →
    memRead params m a n = .error (.crossTopAccess a n) ∧ memWrite params m a n v = .error (.crossTopAccess a n)) ∧
  (∀ (P : Params) (m : Memory) (a : Addr) (n : Nat) (v : Word), P.crossTopPolicy = .wrap → m.wf = true →
    n = 1 ∨ n = 2 ∨ n = 4 →
    memRead P m a n = .ok (BitVec.ofNat 32
      (beValue ((List.range n).map fun i => m.read (BitVec.ofNat 16 ((a.toNat + i) % 65536))))) ∧
    ∃ m', memWrite P m a n v = .ok m' ∧ memRead P m' a n = .ok (BitVec.ofNat 32 (v.toNat % 2 ^ (8 * n))))

/-- RegWrite stores byte i of the low n bytes into reg[r+i], the highest first, in the 35 bytes of the register file; RegRead
of the same code gives the value back; every other byte of the file is as before, and overlapping registers share
bytes (R21, R22, R23, decision D7). -/
def Obligations.RegisterWriteReadsBackAndOverlaps : Prop :=
  ∀ (s : State) (r : BitVec 5) (n : Nat) (v : Word), n = 1 ∨ n = 2 ∨ n = 4 →
    (∀ i, i < n → (regByte (s.regWrite r n v).regs (r.toNat + i)).toNat = v.toNat / 2 ^ (8 * (n - 1 - i)) % 2 ^ 8) ∧
    (s.regWrite r n v).regRead r n = BitVec.ofNat 32 (v.toNat % 2 ^ (8 * n)) ∧
    (∀ j, j < r.toNat ∨ r.toNat + n ≤ j → regByte (s.regWrite r n v).regs j = regByte s.regs j) ∧
    (∀ q : BitVec 5, q.toNat = r.toNat + 1 →
      (s.regWrite r 2 v).regRead q 1 = BitVec.ofNat 32 (v.toNat % 2 ^ 8))

/-! ## Operand forms, decoded from memory -/

/-- Forms 1 and 2 (R102, R103, decision D4): the inline immediate is the descriptor's low six bits; as a pointer it is
loaded and stored through. -/
def Obligations.InlineForms : Prop :=
  ∀ (s : State) (ip0 : Addr) (off : Nat) (w : Width) (v : Word) (d : Byte),
    s.mem.read (ip0 + BitVec.ofNat 16 off) = d →
    (0x20 ≤ d.toNat → d.toNat ≤ 0x3F →
      resolve params s ip0 off w (operandAt params s.mem (ip0 + BitVec.ofNat 16 off) w)
        = .ok ⟨BitVec.ofNat 32 (d.toNat % 64), 1, none⟩ ∧
      commitTo params s ip0 off w v (operandAt params s.mem (ip0 + BitVec.ofNat 16 off) w) = .ok s) ∧
    (0x60 ≤ d.toNat → d.toNat ≤ 0x7F →
      (∃ x, memRead params s.mem (BitVec.ofNat 16 (d.toNat % 64)) w.bytes = .ok x ∧
        resolve params s ip0 off w (operandAt params s.mem (ip0 + BitVec.ofNat 16 off) w)
          = .ok ⟨x, 1, some (BitVec.ofNat 16 (d.toNat % 64))⟩) ∧
      (∃ m, memWrite params s.mem (BitVec.ofNat 16 (d.toNat % 64)) w.bytes v = .ok m ∧
        commitTo params s ip0 off w v (operandAt params s.mem (ip0 + BitVec.ofNat 16 off) w)
          = .ok { s with mem := m }))

/-- Form 3 (R104): the value is the w bytes after the descriptor, the low five descriptor bits are ignored, the length is
1 + w, a destination of this form writes nothing, and the literal read may raise CrossTopAccess. -/
def Obligations.LiteralForm : Prop :=
  ∀ (s : State) (ip0 : Addr) (off : Nat) (w : Width) (v : Word),
    (s.mem.read (ip0 + BitVec.ofNat 16 off)).toNat ≤ 0x1F →
    (∀ x, memRead params s.mem (ip0 + BitVec.ofNat 16 off + 1) w.bytes = .ok x →
      resolve params s ip0 off w (operandAt params s.mem (ip0 + BitVec.ofNat 16 off) w)
        = .ok ⟨x, 1 + w.bytes, none⟩) ∧
    (0xFFFF < (ip0 + BitVec.ofNat 16 off + 1).toNat + w.bytes - 1 →
      resolve params s ip0 off w (operandAt params s.mem (ip0 + BitVec.ofNat 16 off) w)
        = .error (.crossTopAccess (ip0 + BitVec.ofNat 16 off + 1) w.bytes)) ∧
    commitTo params s ip0 off w v (operandAt params s.mem (ip0 + BitVec.ofNat 16 off) w) = .ok s

/-- Form 4 (R105): the address is the two bytes after the descriptor, read again at commit time; the length is 3 for every
width; the address read or the load may raise CrossTopAccess. -/
def Obligations.LiteralAddressForm : Prop :=
  ∀ (s : State) (ip0 : Addr) (off : Nat) (w : Width) (v : Word),
    0x40 ≤ (s.mem.read (ip0 + BitVec.ofNat 16 off)).toNat → (s.mem.read (ip0 + BitVec.ofNat 16 off)).toNat ≤ 0x5F →
    ((ip0 + BitVec.ofNat 16 off + 1).toNat = 0xFFFF →
      resolve params s ip0 off w (operandAt params s.mem (ip0 + BitVec.ofNat 16 off) w)
        = .error (.crossTopAccess 0xFFFF 2) ∧
      commitTo params s ip0 off w v (operandAt params s.mem (ip0 + BitVec.ofNat 16 off) w)
        = .error (.crossTopAccess 0xFFFF 2)) ∧
    (∀ e, memRead params s.mem (ip0 + BitVec.ofNat 16 off + 1) 2 = .ok e →
      (∀ x, memRead params s.mem (e.setWidth 16) w.bytes = .ok x →
        resolve params s ip0 off w (operandAt params s.mem (ip0 + BitVec.ofNat 16 off) w)
          = .ok ⟨x, 3, some (e.setWidth 16)⟩) ∧
      (∀ m, memWrite params s.mem (e.setWidth 16) w.bytes v = .ok m →
        commitTo params s ip0 off w v (operandAt params s.mem (ip0 + BitVec.ofNat 16 off) w)
          = .ok { s with mem := m }) ∧
      (0xFFFF < (e.setWidth 16).toNat + w.bytes - 1 →
        resolve params s ip0 off w (operandAt params s.mem (ip0 + BitVec.ofNat 16 off) w)
          = .error (.crossTopAccess (e.setWidth 16) w.bytes) ∧
        commitTo params s ip0 off w v (operandAt params s.mem (ip0 + BitVec.ofNat 16 off) w)
          = .error (.crossTopAccess (e.setWidth 16) w.bytes)))

/-- Form 5 (R106, R116, decision D7): the w register bytes from the code on; a commit writes them and nothing else. -/
def Obligations.RegisterForm : Prop :=
  ∀ (s : State) (ip0 : Addr) (off : Nat) (w : Width) (v : Word) (r : BitVec 5),
    (s.mem.read (ip0 + BitVec.ofNat 16 off)).toNat = 0x80 + r.toNat →
    resolve params s ip0 off w (operandAt params s.mem (ip0 + BitVec.ofNat 16 off) w)
      = .ok ⟨BitVec.ofNat 32 (beValue ((List.range w.bytes).map fun k => regByte s.regs (r.toNat + k))), 1, none⟩ ∧
    ∃ t, commitTo params s ip0 off w v (operandAt params s.mem (ip0 + BitVec.ofNat 16 off) w) = .ok t ∧
      t = { s with regs := t.regs } ∧
      (∀ k, k < w.bytes → (regByte t.regs (r.toNat + k)).toNat = v.toNat / 2 ^ (8 * (w.bytes - 1 - k)) % 2 ^ 8) ∧
      (∀ j, j < r.toNat ∨ r.toNat + w.bytes ≤ j → regByte t.regs j = regByte s.regs j)

/-- Form 6 (R107, R117): the address is two register bytes at every width; the load and the store may raise
CrossTopAccess. -/
def Obligations.RegisterPointerForm : Prop :=
  ∀ (s : State) (ip0 : Addr) (off : Nat) (w : Width) (v : Word) (r : BitVec 5) (ea : Addr),
    (s.mem.read (ip0 + BitVec.ofNat 16 off)).toNat = 0xC0 + r.toNat →
    ea.toNat = (regByte s.regs r.toNat).toNat * 2 ^ 8 + (regByte s.regs (r.toNat + 1)).toNat →
    (∀ x, memRead params s.mem ea w.bytes = .ok x →
      resolve params s ip0 off w (operandAt params s.mem (ip0 + BitVec.ofNat 16 off) w) = .ok ⟨x, 1, some ea⟩) ∧
    (∀ m, memWrite params s.mem ea w.bytes v = .ok m →
      commitTo params s ip0 off w v (operandAt params s.mem (ip0 + BitVec.ofNat 16 off) w)
        = .ok { s with mem := m }) ∧
    (0xFFFF < ea.toNat + w.bytes - 1 →
      resolve params s ip0 off w (operandAt params s.mem (ip0 + BitVec.ofNat 16 off) w)
        = .error (.crossTopAccess ea w.bytes) ∧
      commitTo params s ip0 off w v (operandAt params s.mem (ip0 + BitVec.ofNat 16 off) w)
        = .error (.crossTopAccess ea w.bytes))

/-- Form 7 (R108, R118, decisions D8, D9): PC or SP, the low byte when w = 1; a commit replaces the field, zero-extended
from a byte when w = 1; codes 2 to 31 raise BadSpecialRegister. -/
def Obligations.SpecialRegisterForm : Prop :=
  ∀ (s : State) (ip0 : Addr) (off : Nat) (w : Width) (v : Word) (d : Byte),
    s.mem.read (ip0 + BitVec.ofNat 16 off) = d →
    (d = 0xA0 →
      resolve params s ip0 off w (operandAt params s.mem (ip0 + BitVec.ofNat 16 off) w)
        = .ok ⟨BitVec.ofNat 32 (s.pc.toNat % 2 ^ w.bits), 1, none⟩ ∧
      commitTo params s ip0 off w v (operandAt params s.mem (ip0 + BitVec.ofNat 16 off) w)
        = .ok { s with pc := BitVec.ofNat 16 (v.toNat % 2 ^ w.bits) }) ∧
    (d = 0xA1 →
      resolve params s ip0 off w (operandAt params s.mem (ip0 + BitVec.ofNat 16 off) w)
        = .ok ⟨BitVec.ofNat 32 (s.sp.toNat % 2 ^ w.bits), 1, none⟩ ∧
      commitTo params s ip0 off w v (operandAt params s.mem (ip0 + BitVec.ofNat 16 off) w)
        = .ok { s with sp := BitVec.ofNat 16 (v.toNat % 2 ^ w.bits) }) ∧
    (0xA2 ≤ d.toNat → d.toNat ≤ 0xBF →
      resolve params s ip0 off w (operandAt params s.mem (ip0 + BitVec.ofNat 16 off) w)
        = .error (.badSpecialRegister (BitVec.ofNat 5 (d.toNat - 0xA0))) ∧
      commitTo params s ip0 off w v (operandAt params s.mem (ip0 + BitVec.ofNat 16 off) w)
        = .error (.badSpecialRegister (BitVec.ofNat 5 (d.toNat - 0xA0))))

/-- Form 8 (R109, R119, decision D10): the memory at SP, or at the byte just before the descriptor for PC, with the same
address for the load and the store; codes 2 to 31 raise BadSpecialRegister. -/
def Obligations.SpecialPointerForm : Prop :=
  ∀ (s : State) (ip0 : Addr) (off : Nat) (w : Width) (v : Word) (d : Byte) (ea : Addr),
    s.mem.read (ip0 + BitVec.ofNat 16 off) = d →
    (d = 0xE0 ∧ ea = s.pc + BitVec.ofNat 16 off - 1 ∨ d = 0xE1 ∧ ea = s.sp →
      (∀ x, memRead params s.mem ea w.bytes = .ok x →
        resolve params s ip0 off w (operandAt params s.mem (ip0 + BitVec.ofNat 16 off) w) = .ok ⟨x, 1, some ea⟩) ∧
      (∀ m, memWrite params s.mem ea w.bytes v = .ok m →
        commitTo params s ip0 off w v (operandAt params s.mem (ip0 + BitVec.ofNat 16 off) w)
          = .ok { s with mem := m }) ∧
      (0xFFFF < ea.toNat + w.bytes - 1 →
        resolve params s ip0 off w (operandAt params s.mem (ip0 + BitVec.ofNat 16 off) w)
          = .error (.crossTopAccess ea w.bytes) ∧
        commitTo params s ip0 off w v (operandAt params s.mem (ip0 + BitVec.ofNat 16 off) w)
          = .error (.crossTopAccess ea w.bytes))) ∧
    (0xE2 ≤ d.toNat →
      resolve params s ip0 off w (operandAt params s.mem (ip0 + BitVec.ofNat 16 off) w)
        = .error (.badSpecialRegister (BitVec.ofNat 5 (d.toNat - 0xE0))) ∧
      commitTo params s ip0 off w v (operandAt params s.mem (ip0 + BitVec.ofNat 16 off) w)
        = .error (.badSpecialRegister (BitVec.ofNat 5 (d.toNat - 0xE0))))

/-- An operand that does not resolve ends the cycle in its fault, for every instruction that takes operands and whatever
the latch holds: A is resolved first, then B after A's bytes (R110, R134, R231; that the faulted state is a next state is
the model's choice, log 2). -/
def Obligations.OperandFaultsEndTheCycle : Prop :=
  (∀ make ∈ oneOperandMakers, ∀ (w : Width) (a : Operand) (s : State) (f : ModelFault), failsA s w a f →
    exec (make w a) s = .next (faultedAt s f)) ∧
  (∀ make ∈ twoOperandMakers, ∀ (w : Width) (a b : Operand) (s : State) (f : ModelFault),
    (failsA s w a f → exec (make w a b) s = .next (faultedAt s f)) ∧
    (∀ ra, readsA s w a ra → failsB s w ra b f → exec (make w a b) s = .next (faultedAt s f)))

/-- A resolved operand is zero-extended, below 2^wbits, when its encoding is well formed (R10, R100). -/
def Obligations.ResolvedOperandFitsTheWidth : Prop :=
  ∀ (s : State) (ip0 : Addr) (off : Nat) (w : Width) (o : Operand) (r : Resolved), o.wf w = true →
    resolve params s ip0 off w o = .ok r → r.val.toNat < 2 ^ w.bits

/-- What a program reads back after a commit is the value modulo 2^wbits: from a register, and from memory through the
address the committer stored to (R170). -/
def Obligations.CommittedValueIsTruncated : Prop :=
  ∀ (s t : State) (ip0 : Addr) (off : Nat) (w : Width) (v : Word) (o : Operand), s.mem.wf = true →
    commitTo params s ip0 off w v o = .ok t →
    (∀ c, o = .reg c → t.regRead c w.bytes = BitVec.ofNat 32 (v.toNat % 2 ^ w.bits)) ∧
    (∀ ea, pointerAddr params s ip0 off o = .ok (some ea) →
      memRead params t.mem ea w.bytes = .ok (BitVec.ofNat 32 (v.toNat % 2 ^ w.bits)))

/-! ## Arithmetic, logic and data movement -/

/-- INC, ADD and SUB (R171, R176, R177): the sum, or the difference, modulo 2^32; no fault of their own. -/
def Obligations.IncAddSubResults : Prop :=
  oneOperandResult .inc 11 (fun _ x => (x + 1) % 2 ^ 32) ∧
  twoOperandResult .add 17 (fun _ x y => (x + y) % 2 ^ 32) ∧
  twoOperandResult .sub 18 (fun _ x y => (x + 2 ^ 32 - y) % 2 ^ 32)

/-- DEC, NEG, MUL and DIV (R172, decision D24; R174, the spec's general knowledge G1; R178; R179, decision D22): DIV is
unsigned floor division and raises DivideByZero when B = 0. -/
def Obligations.DecNegMulDivResults : Prop :=
  oneOperandResult .dec 12 (fun _ x => (x + 2 ^ 32 - 1) % 2 ^ 32) ∧
  oneOperandResult .neg 14 (fun _ x => (2 ^ 32 - x) % 2 ^ 32) ∧
  twoOperandResult .mul 19 (fun _ x y => x * y % 2 ^ 32) ∧
  twoOperandResultOrFault .div 20 (fun y => y = 0) (fun _ => .divideByZero) (fun x y => x / y)

/-- NOT, AND, NAND, OR, NOR and XOR (R173, R180 to R184). -/
def Obligations.BitwiseResults : Prop :=
  oneOperandResult .not 13 (fun _ x => x ^^^ 0xFFFFFFFF) ∧
  twoOperandResult .and 21 (fun _ x y => x &&& y) ∧
  twoOperandResult .nand 22 (fun _ x y => (x &&& y) ^^^ 0xFFFFFFFF) ∧
  twoOperandResult .or 23 (fun _ x y => x ||| y) ∧
  twoOperandResult .nor 24 (fun _ x y => (x ||| y) ^^^ 0xFFFFFFFF) ∧
  twoOperandResult .xor 25 (fun _ x y => x ^^^ y)

/-- BSET and BCLR set and clear bit B of A and raise BitIndexRange for an index of 32 or more; SHL and SHR shift in zeros
and raise ShiftRange for a count of 32 or more (R185 to R188, decision D21, the spec's general knowledge G2). -/
def Obligations.BitAndShiftResults : Prop :=
  twoOperandResultOrFault .bset 26 (fun y => 32 ≤ y) .bitIndexRange (fun x y => x ||| 2 ^ y) ∧
  twoOperandResultOrFault .bclr 27 (fun y => 32 ≤ y) .bitIndexRange (fun x y => x &&& (2 ^ y ^^^ 0xFFFFFFFF)) ∧
  twoOperandResultOrFault .shl 28 (fun y => 32 ≤ y) .shiftRange (fun x y => x * 2 ^ y % 2 ^ 32) ∧
  twoOperandResultOrFault .shr 29 (fun y => 32 ≤ y) .shiftRange (fun x y => x / 2 ^ y)

/-- ROL and ROR rotate by B mod wbits within the width, by the formulas of R189 and R190 (decision D23). -/
def Obligations.RotateResults : Prop :=
  twoOperandResult .rol 30 (fun w x y =>
    if y % w.bits = 0 then x else x * 2 ^ (y % w.bits) % 2 ^ w.bits ||| x / 2 ^ (w.bits - y % w.bits)) ∧
  twoOperandResult .ror 31 (fun w x y =>
    if y % w.bits = 0 then x else x / 2 ^ (y % w.bits) ||| x * 2 ^ (w.bits - y % w.bits) % 2 ^ w.bits)

/-- A rotate moves bit j to bit (j + B) mod wbits (ROL) or (j - B) mod wbits (ROR), and never sets a bit beyond the
width (R189, R190, decision D23). -/
def Obligations.RotateMovesEveryBit : Prop :=
  ∀ (w : Width) (x y : Word), x.toNat < 2 ^ w.bits →
    (∀ j, j < w.bits →
      (aluRol w x y).getLsbD ((j + y.toNat) % w.bits) = x.getLsbD j ∧
      (aluRor w x y).getLsbD j = x.getLsbD ((j + y.toNat) % w.bits)) ∧
    (∀ j, w.bits ≤ j → (aluRol w x y).getLsbD j = false ∧ (aluRor w x y).getLsbD j = false)

/-- BSWAP reverses the bytes of the width (R175). -/
def Obligations.ByteSwapResult : Prop :=
  oneOperandResult .bswap 15 fun w x =>
    match w with
    | .w8 => x % 2 ^ 8
    | .w16 => x % 2 ^ 8 * 2 ^ 8 + x / 2 ^ 8 % 2 ^ 8
    | .w32 => x % 2 ^ 8 * 2 ^ 24 + x / 2 ^ 8 % 2 ^ 8 * 2 ^ 16 + x / 2 ^ 16 % 2 ^ 8 * 2 ^ 8 + x / 2 ^ 24 % 2 ^ 8

/-- MOV: the result is B; A is resolved all the same, so that an A which does not resolve ends the cycle in its fault
(R134, R192, R231; that the faulted state is a next state is the model's choice, log 2). -/
def Obligations.MoveResult : Prop :=
  twoOperandResult .mov 33 (fun _ _ y => y) ∧
  ∀ (w : Width) (a b : Operand) (s : State) (f : ModelFault), failsA s w a f →
    exec (.mov w a b) s = .next (faultedAt s f)

/-- XCHG commits B's value through A's destination and then A's value through B's destination, decoded afresh from the
memory the first commit left (R137, R191, decision D26). -/
def Obligations.ExchangeCommitsTwice : Prop :=
  ∀ (w : Width) (a b : Operand) (s : State),
    hasOpcode (Instr.xchg w a b) 32 ∧
    (∀ ra rb, readsA s w a ra → readsB s w ra b rb →
      s.skipActive = false →
        ∃ t, commitTo params (atIp0 s) (s.pc + 1) 0 w rb.val a = .ok t ∧
          (∀ f, commitTo params t (s.pc + 1) ra.len w ra.val
              (operandAt params t.mem (s.pc + 1 + BitVec.ofNat 16 ra.len) w) = .error f →
            exec (.xchg w a b) s = .next (faultedAt s f)) ∧
          (∀ u, commitTo params t (s.pc + 1) ra.len w ra.val
              (operandAt params t.mem (s.pc + 1 + BitVec.ofNat 16 ra.len) w) = .ok u →
            exec (.xchg w a b) s = .next (completed u (ra.len + rb.len))))

/-- XCHG of two registers that do not overlap swaps their values and changes no other register byte and no memory (R191,
decision D26). -/
def Obligations.ExchangeSwapsRegisters : Prop :=
  ∀ (w : Width) (p q : BitVec 5) (s : State), s.skipActive = false →
    p.toNat + w.bytes ≤ q.toNat ∨ q.toNat + w.bytes ≤ p.toNat →
    (s.mem.read (s.pc + 2)).toNat = 0x80 + q.toNat →
    ∃ t, exec (.xchg w (.reg p) (.reg q)) s = .next t ∧
      t.regRead p w.bytes = s.regRead q w.bytes ∧ t.regRead q w.bytes = s.regRead p w.bytes ∧
      (∀ j, (j < p.toNat ∨ p.toNat + w.bytes ≤ j) → (j < q.toNat ∨ q.toNat + w.bytes ≤ j) →
        regByte t.regs j = regByte s.regs j) ∧
      t.mem = s.mem ∧ t.sp = s.sp ∧ t.pc = s.pc + 3 ∧ t.faulted = s.faulted ∧ hostSideKept s t

/-- The unassigned opcode numbers 50 to 63 resolve and advance over two operands and do nothing else; their faults are
those of resolving the operands (R84, R164). -/
def Obligations.UnassignedOpcodesDoNothing : Prop :=
  ∀ n make, (n, make) ∈ unassignedMakers → ∀ (w : Width) (a b : Operand) (s : State),
    hasOpcode (make w a b) n ∧
    (∀ ra rb, readsA s w a ra → readsB s w ra b rb →
      exec (make w a b) s = .next (completed (atIp0 s) (ra.len + rb.len)))

/-! ## Control transfer and the stack -/

/-- NOP: PC ends at ip0, for every mode; nothing else changes but the skip latch (R150). -/
def Obligations.NopOnlyAdvances : Prop :=
  ∀ (m : BitVec 2) (s : State), hasOpcode (Instr.nop m) 0 ∧ exec (.nop m) s = .next (completed (atIp0 s) 0)

/-- JMP: PC ends at (A[15:0] + lenA) mod 2^16, in a suppressed cycle too (R151, decision D13). -/
def Obligations.JumpLandsPastItsOperand : Prop :=
  ∀ (w : Width) (a : Operand) (s : State),
    hasOpcode (Instr.jmp w a) 2 ∧
    (∀ ra, readsA s w a ra → exec (.jmp w a) s =
      .next (completed { atIp0 s with pc := BitVec.ofNat 16 (ra.val.toNat % 2 ^ 16) } ra.len))

/-- CALL: the address of the instruction after it is stored at SP - 2, SP drops by 2, and PC ends at A[15:0] + lenA; the
store raises CrossTopAccess when SP was 1 (R152, decisions D13 to D15). -/
def Obligations.CallPushesTheReturnAddress : Prop :=
  ∀ (w : Width) (a : Operand) (s : State),
    hasOpcode (Instr.call w a) 3 ∧
    (∀ ra, readsA s w a ra → s.sp = 1 → exec (.call w a) s = .next (faultedAt s (.crossTopAccess 0xFFFF 2))) ∧
    (∀ ra, readsA s w a ra → s.sp ≠ 1 →
      ∃ m, memWrite params s.mem (s.sp - 2) 2 (BitVec.ofNat 32 ((s.pc.toNat + 1 + ra.len) % 2 ^ 16)) = .ok m ∧
        exec (.call w a) s = .next (completed
          { atIp0 s with pc := BitVec.ofNat 16 (ra.val.toNat % 2 ^ 16), sp := s.sp - 2, mem := m } ra.len))

/-- RET: PC takes the two bytes at SP and SP rises by 2, for every mode; it raises CrossTopAccess when SP is 0xFFFF (R153,
decision D15). -/
def Obligations.ReturnPopsPc : Prop :=
  ∀ (m : BitVec 2) (s : State),
    hasOpcode (Instr.ret m) 1 ∧
    (s.sp = 0xFFFF → exec (.ret m) s = .next (faultedAt s (.crossTopAccess 0xFFFF 2))) ∧
    (s.sp ≠ 0xFFFF → exec (.ret m) s = .next (completed
      { s with pc := BitVec.ofNat 16 ((s.mem.read s.sp).toNat * 2 ^ 8 + (s.mem.read (s.sp + 1)).toNat),
               sp := s.sp + 2 } 0))

/-- CALL then RET: PC is at the instruction after the CALL and SP at its value before it, from every state in which the
CALL completes (R152, decision D14). -/
def Obligations.CallThenReturnRestores : Prop :=
  ∀ (w : Width) (a : Operand) (s t : State) (m : BitVec 2), s.mem.wf = true → s.faulted = none →
    exec (.call w a) s = .next t → t.faulted = none →
    ∃ u, exec (.ret m) t = .next u ∧ u.pc = s.pc + 1 + BitVec.ofNat 16 (operandLen w a) ∧ u.sp = s.sp ∧
      u.faulted = none

/-- PUSH: SP drops by the width, then A, resolved before, is stored there; the store raises CrossTopAccess when it would pass
0xFFFF; no flag is written (R154). -/
def Obligations.PushStoresBelowSp : Prop :=
  ∀ (w : Width) (a : Operand) (s : State),
    hasOpcode (Instr.push w a) 4 ∧
    (∀ ra m, readsA s w a ra → memWrite params s.mem (s.sp - BitVec.ofNat 16 w.bytes) w.bytes ra.val = .ok m →
      exec (.push w a) s = .next (completed
        { atIp0 s with sp := s.sp - BitVec.ofNat 16 w.bytes, mem := m } ra.len)) ∧
    (∀ ra, readsA s w a ra → 0xFFFF < (s.sp - BitVec.ofNat 16 w.bytes).toNat + w.bytes - 1 →
      exec (.push w a) s = .next (faultedAt s (.crossTopAccess (s.sp - BitVec.ofNat 16 w.bytes) w.bytes)))

/-- POP: the value at SP is loaded, SP rises by the width, and the value is committed to A's destination after that; in a
suppressed cycle SP still moves (R155). -/
def Obligations.PopLoadsFromSp : Prop :=
  ∀ (w : Width) (a : Operand) (s : State),
    hasOpcode (Instr.pop w a) 16 ∧
    (∀ ra, readsA s w a ra → 0xFFFF < s.sp.toNat + w.bytes - 1 →
      exec (.pop w a) s = .next (faultedAt s (.crossTopAccess s.sp w.bytes))) ∧
    (∀ ra v, readsA s w a ra → memRead params s.mem s.sp w.bytes = .ok v →
      (s.skipActive = true →
        exec (.pop w a) s = .next (completed { atIp0 s with sp := s.sp + BitVec.ofNat 16 w.bytes } ra.len)) ∧
      (s.skipActive = false →
        (∀ f, commitTo params { atIp0 s with sp := s.sp + BitVec.ofNat 16 w.bytes } (s.pc + 1) 0 w v a = .error f →
          exec (.pop w a) s = .next (faultedAt s f)) ∧
        (∀ t, commitTo params { atIp0 s with sp := s.sp + BitVec.ofNat 16 w.bytes } (s.pc + 1) 0 w v a = .ok t →
          exec (.pop w a) s = .next (completed t ra.len))))

/-- PUSH then POP of the same width into a register gives the pushed value and restores SP (R154, R155). -/
def Obligations.PushThenPopRoundTrips : Prop :=
  ∀ (w : Width) (a : Operand) (r : BitVec 5) (s t : State) (ra : Resolved), s.mem.wf = true → s.faulted = none →
    a.wf w = true → readsA s w a ra → exec (.push w a) s = .next t → t.faulted = none → t.skipActive = false →
    ∃ u, exec (.pop w (.reg r)) t = .next u ∧ u.faulted = none ∧ u.sp = s.sp ∧ u.regRead r w.bytes = ra.val

/-! ## Host escapes -/

/-- BRK and INT with their hook installed and the answer Continue: the event carries A's value and the address of the
opcode byte, nothing else changes, and PC ends past the operand (R160, R162, R163, decision D27; the answer, the oldest
queued one or else a free value, is the model's own, log 3). Without the hook, HostHookMissing. -/
def Obligations.HostEscapesContinue : Prop :=
  ∀ (w : Width) (a : Operand) (s : State),
    hasOpcode (Instr.brk w a) 5 ∧ hasOpcode (Instr.int w a) 6 ∧
    (∀ ra, readsA s w a ra → s.hookBrk = false →
      exec (.brk w a) s = .next (faultedAt s (.hostHookMissing .breakpoint))) ∧
    (∀ ra, readsA s w a ra → s.hookInt = false →
      exec (.int w a) s = .next (faultedAt s (.hostHookMissing .interrupt))) ∧
    (∀ ra, readsA s w a ra → s.hookBrk = true → s.nextAnswer = .continue →
      exec (.brk w a) s = .next (completed
        { atIp0 s with events := s.events ++ [⟨.breakpoint, ra.val, s.pc⟩], hostAnswers := s.hostAnswers.tail } ra.len)) ∧
    (∀ ra, readsA s w a ra → s.hookInt = true → s.nextAnswer = .continue →
      exec (.int w a) s = .next (completed
        { atIp0 s with events := s.events ++ [⟨.interrupt, ra.val, s.pc⟩], hostAnswers := s.hostAnswers.tail } ra.len))

/-- An escape answered Stop ends the run inside the cycle: PC = ip0 and the skip flags as at its start (R255, decision D27,
log 4). One answered by starting a cycle raises ReentrantCycle, its event not undone (R231, R236, decision D32, log 6). -/
def Obligations.HostEscapesStopOrReenter : Prop :=
  ∀ (w : Width) (a : Operand) (s : State) (ra : Resolved), readsA s w a ra →
    (s.hookBrk = true → s.nextAnswer = .stop → exec (.brk w a) s = .next
      { atIp0 s with events := s.events ++ [⟨.breakpoint, ra.val, s.pc⟩], hostAnswers := s.hostAnswers.tail,
                     stopped := some ⟨.breakpoint, ra.val, s.pc⟩ }) ∧
    (s.hookInt = true → s.nextAnswer = .stop → exec (.int w a) s = .next
      { atIp0 s with events := s.events ++ [⟨.interrupt, ra.val, s.pc⟩], hostAnswers := s.hostAnswers.tail,
                     stopped := some ⟨.interrupt, ra.val, s.pc⟩ }) ∧
    (s.hookBrk = true → s.nextAnswer = .reenter → exec (.brk w a) s = .next (faultedAt
      { s with events := s.events ++ [⟨.breakpoint, ra.val, s.pc⟩], hostAnswers := s.hostAnswers.tail } .reentrantCycle)) ∧
    (s.hookInt = true → s.nextAnswer = .reenter → exec (.int w a) s = .next (faultedAt
      { s with events := s.events ++ [⟨.interrupt, ra.val, s.pc⟩], hostAnswers := s.hostAnswers.tail } .reentrantCycle))

/-! ## Conditionals and the skip -/

/-- SNZ and SE set skip_next exactly when A is not 0, and when A equals B (R202, R208). -/
def Obligations.SkipIfNonzeroAndSkipIfEqual : Prop :=
  oneOperandTest .snz 8 (fun x => x ≠ 0) ∧ twoOperandCompare .se 37 (fun x y => x = y)

/-- The other comparing conditionals, all unsigned (R201, R203 to R207, R209 to R216, decisions D19, D20). -/
def Obligations.UnsignedComparisonConditionals : Prop :=
  oneOperandTest .jz 7 (fun x => x ≠ 0) ∧ oneOperandTest .jnz 9 (fun x => x = 0) ∧
  oneOperandTest .sz 10 (fun x => x = 0) ∧
  twoOperandCompare .je 34 (fun x y => x ≠ y) ∧ twoOperandCompare .sne 35 (fun x y => x ≠ y) ∧
  twoOperandCompare .jne 36 (fun x y => x = y) ∧
  twoOperandCompare .jl 38 (fun x y => x ≥ y) ∧ twoOperandCompare .sge 39 (fun x y => x ≥ y) ∧
  twoOperandCompare .jge 40 (fun x y => x < y) ∧ twoOperandCompare .sl 41 (fun x y => x < y) ∧
  twoOperandCompare .jg 42 (fun x y => x ≤ y) ∧ twoOperandCompare .sle 43 (fun x y => x ≤ y) ∧
  twoOperandCompare .jle 44 (fun x y => x > y) ∧ twoOperandCompare .sg 45 (fun x y => x > y)

/-- The bit tests: JBS and SBC skip on a clear bit, JBC and SBS on a set bit (R217 to R220, decisions D19 to D21). -/
def Obligations.BitTestConditionals : Prop :=
  bitIndexTest .jbs 46 0 ∧ bitIndexTest .sbc 47 0 ∧ bitIndexTest .jbc 48 1 ∧ bitIndexTest .sbs 49 1

/-- After a completed cycle `skip_next` is false, and the latch is set only where the instruction was a conditional (R30,
R140, R143, R256, decision D12). -/
def Obligations.OnlyAConditionalArmsTheSkip : Prop :=
  ∀ (i : Instr) (s t : State), s.skipNext = false → exec i s = .next t → t.faulted = none → t.stopped = none →
    t.skipNext = false ∧
    (t.skipActive = true →
      (∃ make ∈ testOneMakers, ∃ w a, i = make w a) ∨ ∃ make ∈ testTwoMakers, ∃ w a b, i = make w a b)

/-- In a suppressed cycle no result-band instruction commits, XCHG's two commits included: where the operation itself raises
no fault, only PC, the skip latch and, in a POP, SP move (R120, R138, R143, decision D12). -/
def Obligations.SuppressedCyclesCommitNothing : Prop :=
  ∀ (w : Width) (a b : Operand) (s : State) (ra rb : Resolved), s.skipActive = true → readsA s w a ra →
    (∀ make ∈ aluOneMakers, exec (make w a) s = .next (completed (atIp0 s) ra.len)) ∧
    (∀ v, memRead params s.mem s.sp w.bytes = .ok v →
      exec (.pop w a) s = .next (completed { atIp0 s with sp := s.sp + BitVec.ofNat 16 w.bytes } ra.len)) ∧
    (readsB s w ra b rb →
      (∀ make ∈ .xchg :: aluTotalMakers, exec (make w a b) s = .next (completed (atIp0 s) (ra.len + rb.len))) ∧
      (∀ make ∈ aluRangedMakers, rb.val.toNat < 32 →
        exec (make w a b) s = .next (completed (atIp0 s) (ra.len + rb.len))) ∧
      (rb.val.toNat ≠ 0 → exec (.div w a b) s = .next (completed (atIp0 s) (ra.len + rb.len))))

/-- Dispatch effects survive suppression (R143): an instruction outside the result band ends a completed cycle in the
same state whatever the latch held at its start, the skip that a conditional arms included; where the cycle faults or is
stopped, only the latch differs, and it keeps its value. -/
def Obligations.DispatchEffectsIgnoreTheLatch : Prop :=
  ∀ (i : Instr) (s t u : State) (x : Bool), (i.opcode.toNat ≤ 10 ∨ 34 ≤ i.opcode.toNat) →
    exec i s = .next t → exec i { s with skipActive := x } = .next u →
    (t.faulted = none → t.stopped = none → u = t) ∧ u = { t with skipActive := u.skipActive } ∧
    (t.faulted ≠ none ∨ t.stopped ≠ none → s.faulted = none → s.stopped = none →
      t.skipActive = s.skipActive ∧ u.skipActive = x)

/-! ## Frames -/

/-- The frame of a commit (R112 to R119): only the destination changes; the flags, the hooks and the host's side never. -/
def Obligations.CommitFrame : Prop :=
  ∀ (s t : State) (ip0 : Addr) (off : Nat) (w : Width) (v : Word) (o : Operand),
    commitTo params s ip0 off w v o = .ok t →
    destinationFrame s t ip0 off w o ∧ (o ≠ .special 0 → t.pc = s.pc) ∧ t.skipNext = s.skipNext ∧
      t.skipActive = s.skipActive ∧ t.faulted = s.faulted ∧ hostSideKept s t

/-- The frame of the ALU instructions, MOV and XCHG: only A's destination changes, at the address the committer stores to
(for XCHG, also the destination of the second commit, decoded and addressed in the state `u` after the first); the skip
latch takes skip_next (R170, R191, R193). -/
def Obligations.AluAndExchangeFrame : Prop :=
  (∀ make ∈ aluOneMakers, ∀ (w : Width) (a : Operand) (s t : State), exec (make w a) s = .next t →
    destinationFrame (atIp0 s) t (s.pc + 1) 0 w a ∧ hostSideKept s t ∧ skipsLatched s t) ∧
  (∀ make ∈ aluTwoMakers, ∀ (w : Width) (a b : Operand) (s t : State), exec (make w a b) s = .next t →
    destinationFrame (atIp0 s) t (s.pc + 1) 0 w a ∧ hostSideKept s t ∧ skipsLatched s t) ∧
  (∀ (w : Width) (a b : Operand) (s t : State), exec (.xchg w a b) s = .next t →
    hostSideKept s t ∧ skipsLatched s t ∧
    (∀ ra rb u c, readsA s w a ra → readsB s w ra b rb →
      commitTo params (atIp0 s) (s.pc + 1) 0 w rb.val a = .ok u →
      c = operandAt params u.mem (s.pc + 1 + BitVec.ofNat 16 ra.len) w →
      (∀ x, (∀ ea, pointerAddr params (atIp0 s) (s.pc + 1) 0 a = .ok (some ea) → outside ea w.bytes x) →
        (∀ eb, pointerAddr params u (s.pc + 1) ra.len c = .ok (some eb) → outside eb w.bytes x) →
        t.mem.read x = s.mem.read x) ∧
      (∀ j, (∀ r, a = .reg r ∨ c = .reg r → j < r.toNat ∨ r.toNat + w.bytes ≤ j) →
        regByte t.regs j = regByte s.regs j) ∧
      (a ≠ .special 1 → c ≠ .special 1 → t.sp = s.sp)))

/-- The frame of the instructions that store nothing and write no register: NOP, JMP, RET, the conditionals and the
unassigned numbers leave every register and every byte of memory, and all but RET leave SP (R150, R151, R153, R164,
R200). -/
def Obligations.NoStoreFrame : Prop :=
  (∀ (i : Instr) (s t : State), (i.opcode.toNat ≤ 2 ∨ 7 ≤ i.opcode.toNat ∧ i.opcode.toNat ≤ 10 ∨ 34 ≤ i.opcode.toNat) →
    exec i s = .next t →
    t.regs = s.regs ∧ (∀ x, t.mem.read x = s.mem.read x) ∧ (i.opcode ≠ 1 → t.sp = s.sp) ∧ hostSideKept s t)

/-- The frames of the stack instructions. PUSH and CALL leave every register and every byte outside the stored ones, which
begin at the new SP, and move SP down by the bytes stored. POP changes only A's destination, at the address the committer
computes with SP already moved up by the width; a POP that faults changes nothing else (R152, R154, R155, R231). -/
def Obligations.StackFrames : Prop :=
  (∀ (w : Width) (a : Operand) (s t : State), exec (.push w a) s = .next t →
    t.regs = s.regs ∧ hostSideKept s t ∧ skipsLatched s t ∧
    (∀ x, outside (s.sp - BitVec.ofNat 16 w.bytes) w.bytes x → t.mem.read x = s.mem.read x) ∧
    (s.faulted = none → t.faulted = none → t.sp = s.sp - BitVec.ofNat 16 w.bytes)) ∧
  (∀ (w : Width) (a : Operand) (s t : State), exec (.call w a) s = .next t →
    t.regs = s.regs ∧ hostSideKept s t ∧ skipsLatched s t ∧
    (∀ x, outside (s.sp - 2) 2 x → t.mem.read x = s.mem.read x) ∧
    (s.faulted = none → t.faulted = none → t.sp = s.sp - 2)) ∧
  (∀ (w : Width) (a : Operand) (s t : State), exec (.pop w a) s = .next t →
    hostSideKept s t ∧ skipsLatched s t ∧
    (s.faulted = none → t.faulted = none →
      destinationFrame { atIp0 s with sp := s.sp + BitVec.ofNat 16 w.bytes } t (s.pc + 1) 0 w a) ∧
    (∀ f p, s.faulted = none → t.faulted = some (f, p) → t = faultedAt s f))

/-- Only BRK and INT hand control to the host, and nothing else of the machine moves: registers, memory, SP and the hooks
stay, and at most one event is recorded. No other instruction records an event, uses an answer or stops the run, and no
instruction installs or removes a hook (R162, R163, R235, R253). -/
def Obligations.OnlyEscapesReachTheHost : Prop :=
  (∀ (i : Instr) (s t : State), isEscape i → exec i s = .next t →
    t.regs = s.regs ∧ t.mem = s.mem ∧ t.sp = s.sp ∧ t.hookBrk = s.hookBrk ∧ t.hookInt = s.hookInt ∧
    (t.events = s.events ∨ ∃ e, t.events = s.events ++ [e] ∧ e.pcAtFetch = s.pc)) ∧
  (∀ (i : Instr) (s t : State), ¬ isEscape i → exec i s = .next t → hostSideKept s t)

/-! ## The whole machine -/

/-- Every step keeps the invariant: memory in its canonical form, skip_next false (R30), a fault or a stop recorded
precisely (R231, R255). -/
def Obligations.StepKeepsTheInvariant : Prop :=
  ∀ s t : State, s.Inv = true → step s = .next t → t.Inv = true

/-- The state after initialization has the invariant and can take a cycle. -/
def Obligations.ResetHasTheInvariant : Prop := State.reset.Inv = true ∧ State.reset.running = true

/-- The state after reset, and the state the host's init leaves from any state: registers and padding 0, PC 0, memory 0,
the flags false, no fault, the hooks not installed; SP is 0xFFFF by the spec's decision D16 (R37, R250). -/
def Obligations.ResetValues : Prop :=
  ∀ s t : State, t = State.reset ∨ t = s.initialize →
    (∀ i, regByte t.regs i = 0) ∧ (∀ a, t.mem.read a = 0) ∧ t.pc = 0 ∧ t.sp = 0xFFFF ∧ t.skipNext = false ∧
    t.skipActive = false ∧ t.hookBrk = false ∧ t.hookInt = false ∧ t.faulted = none

/-- Model faults are precise: a step that raises one changes nothing else of the machine and names the faulting
instruction's address (R231, decision D28); only BRK and INT may add an event. -/
def Obligations.FaultsArePrecise : Prop :=
  ∀ (s t : State) (f : ModelFault) (p : Addr), step s = .next t → t.faulted = some (f, p) →
    p = s.pc ∧ t = { s with faulted := some (f, s.pc), events := t.events, hostAnswers := t.hostAnswers } ∧
    (f ≠ .reentrantCycle → t = faultedAt s f)

/-- Each operation's own fault is raised by that operation only, and on the values that warrant it only (R232):
DivideByZero by DIV with B = 0, ShiftRange by SHL and SHR and BitIndexRange by the six bit operations with B of 32 or more,
HostHookMissing by BRK and INT without their hook, ReentrantCycle by these two where the host answers so,
ReservedBitsMode by no decoded instruction, BadSpecialRegister on a code of 2 or more, CrossTopAccess past 0xFFFF. -/
def Obligations.FaultsComeFromTheirInstructions : Prop :=
  ∀ (i : Instr) (s t : State) (f : ModelFault) (p : Addr), s.faulted = none → exec i s = .next t →
    t.faulted = some (f, p) →
    (f = .divideByZero → ∃ w a b ra rb, i = .div w a b ∧ readsA s w a ra ∧ readsB s w ra b rb ∧ rb.val = 0) ∧
    (∀ n, f = .shiftRange n → 32 ≤ n.toNat ∧ ∃ w a b ra rb, (i = .shl w a b ∨ i = .shr w a b) ∧
      readsA s w a ra ∧ readsB s w ra b rb ∧ rb.val = n) ∧
    (∀ n, f = .bitIndexRange n → 32 ≤ n.toNat ∧ ∃ make ∈ bitIndexMakers, ∃ w a b ra rb, i = make w a b ∧
      readsA s w a ra ∧ readsB s w ra b rb ∧ rb.val = n) ∧
    (f = .hostHookMissing .breakpoint → s.hookBrk = false ∧ ∃ w a, i = .brk w a) ∧
    (f = .hostHookMissing .interrupt → s.hookInt = false ∧ ∃ w a, i = .int w a) ∧
    (f = .reentrantCycle → isEscape i ∧ s.nextAnswer = .reenter) ∧
    (∀ op, f ≠ .reservedBitsMode op) ∧ (∀ c, f = .badSpecialRegister c → 2 ≤ c.toNat) ∧
    (∀ a n, f = .crossTopAccess a n → 0xFFFF < a.toNat + n - 1)

/-- load copies the bytes in increasing order with wrapping addresses and touches nothing else of the state (R252). -/
def Obligations.LoadCopiesTheImage : Prop :=
  ∀ (s : State) (offset : Addr) (bytes : List Byte), s.mem.wf = true → bytes.length ≤ 65536 →
    (∀ k (h : k < bytes.length), (s.load offset bytes).mem.read (offset + BitVec.ofNat 16 k) = bytes[k]) ∧
    (∀ x, outside offset bytes.length x → (s.load offset bytes).mem.read x = s.mem.read x) ∧
    s.load offset bytes = { s with mem := (s.load offset bytes).mem } ∧ (s.load offset bytes).mem.wf = true
end

