-- ==== Sys2Proof/Laws/Bytes.lean ====
section
/-! SUPPORT. Big-endian bytes and their value (20_memory R51, R52). -/

namespace Sys2Proof

@[simp] theorem beBytes_length (n v : Nat) : (beBytes n v).length = n := by
  induction n with
  | zero => rfl
  | succ n ih => simp [beBytes, ih]

theorem foldl_bytes (bs : List Byte) (x : Nat) :
    bs.foldl (fun n b => n * 256 + b.toNat) x = x * 256 ^ bs.length + beValue bs := by
  induction bs generalizing x with
  | nil => simp [beValue]
  | cons b bs ih =>
    simp only [beValue, List.foldl_cons, List.length_cons] at *
    rw [ih, ih (0 * 256 + b.toNat)]
    ring

@[simp] theorem beValue_nil : beValue [] = 0 := rfl

theorem beValue_cons (b : Byte) (bs : List Byte) :
    beValue (b :: bs) = b.toNat * 256 ^ bs.length + beValue bs := by
  have h := foldl_bytes bs b.toNat
  simpa [beValue] using h

theorem beValue_lt (bs : List Byte) : beValue bs < 256 ^ bs.length := by
  induction bs with
  | nil => simp
  | cons b bs ih =>
    have hb : b.toNat < 256 := b.isLt
    rw [beValue_cons, List.length_cons, pow_succ]
    nlinarith

/-- Writing the low n bytes of a value and reading them back keeps the value modulo 256^n. -/
theorem beValue_beBytes (n v : Nat) : beValue (beBytes n v) = v % 256 ^ n := by
  induction n with
  | zero => simp [beBytes, Nat.mod_one]
  | succ n ih =>
    rw [beBytes, beValue_cons, ih, beBytes_length, BitVec.toNat_ofNat]
    have h2 : (2 : Nat) ^ 8 = 256 := rfl
    rw [h2, pow_succ, Nat.mod_mul]
    ring

/-- Bytes are the big-endian bytes of their value. -/
theorem beBytes_beValue (bs : List Byte) : beBytes bs.length (beValue bs) = bs := by
  suffices h : ∀ (bs : List Byte) (x : Nat), beBytes bs.length (x * 256 ^ bs.length + beValue bs) = bs by
    simpa using h bs 0
  intro bs
  induction bs with
  | nil => intro x; rfl
  | cons b bs ih =>
    intro x
    have hlt := beValue_lt bs
    have hpos : 0 < 256 ^ bs.length := by positivity
    have hsum : x * 256 ^ (bs.length + 1) + beValue (b :: bs)
        = (x * 256 + b.toNat) * 256 ^ bs.length + beValue bs := by
      rw [beValue_cons, pow_succ]; ring
    have hdiv : ((x * 256 + b.toNat) * 256 ^ bs.length + beValue bs) / 256 ^ bs.length = x * 256 + b.toNat := by
      rw [Nat.add_comm, Nat.add_mul_div_right _ _ hpos, Nat.div_eq_of_lt hlt, Nat.zero_add]
    rw [List.length_cons, hsum, beBytes, hdiv, ih]
    congr 1
    apply BitVec.eq_of_toNat_eq
    have hb : b.toNat < 256 := b.isLt
    simp only [BitVec.toNat_ofNat]
    omega

end Sys2Proof
end

