-- ==== Sys2Proof/Laws/Memory.lean ====
section
/-! SUPPORT. Memory: every operation keeps the one canonical form, a read after a write gives the value written, and a
write leaves every other byte alone (20_memory R51 to R54). -/

namespace Sys2Proof.Machine

/-! ## Cells -/

theorem cellsWf_weaken {lo lo' : Nat} (h : lo' ≤ lo) : ∀ {cs : List Host.Cell}, cellsWf lo cs = true → cellsWf lo' cs = true
  | [], _ => rfl
  | (k, v) :: rest, hw => by
    simp only [cellsWf, Bool.and_eq_true, decide_eq_true_eq] at hw ⊢
    exact ⟨⟨⟨by omega, hw.1.1.2⟩, hw.1.2⟩, hw.2⟩

theorem cellsRead_below : ∀ {lo a : Nat} {cs : List Host.Cell}, cellsWf lo cs = true → a < lo → cellsRead cs a = 0#8
  | _, _, [], _, _ => rfl
  | lo, a, (k, v) :: rest, hw, ha => by
    simp only [cellsWf, Bool.and_eq_true, decide_eq_true_eq] at hw
    have hk : k ≠ a := by omega
    simp only [cellsRead, hk, if_false]
    exact cellsRead_below hw.2 (by omega)

theorem cellsWrite_wf : ∀ {cs : List Host.Cell} {lo a : Nat} (v : Byte), cellsWf lo cs = true → lo ≤ a → a < 65536 →
    cellsWf lo (cellsWrite cs a v) = true
  | [], lo, a, v, _, hlo, ha => by
    by_cases hv : v = 0#8 <;> simp [cellsWrite, cellsWf, hv, hlo, ha]
  | (k, x) :: rest, lo, a, v, hw, hlo, ha => by
    simp only [cellsWf, Bool.and_eq_true, decide_eq_true_eq] at hw
    obtain ⟨⟨⟨h1, h2⟩, h3⟩, h4⟩ := hw
    unfold cellsWrite
    by_cases hak : a < k
    · by_cases hv : v = 0#8
      · simp [hak, hv, cellsWf, h1, h2, h3, h4]
      · have : a + 1 ≤ k := hak
        simp [hak, hv, cellsWf, hlo, ha, h2, h3, h4, this]
    · by_cases hek : a = k
      · subst hek
        by_cases hv : v = 0#8
        · simp only [hv, lt_irrefl, if_false, if_true]
          exact cellsWf_weaken (by omega) h4
        · simp [hv, cellsWf, hlo, ha, h4]
      · have hr := cellsWrite_wf v h4 (by omega) ha
        simp [hak, hek, cellsWf, h1, h2, h3, hr]

theorem cellsRead_write_other : ∀ (cs : List Host.Cell) {a b : Nat} (v : Byte), a ≠ b →
    cellsRead (cellsWrite cs a v) b = cellsRead cs b
  | [], a, b, v, h => by
    by_cases hv : v = 0#8 <;> simp [cellsWrite, cellsRead, hv, h]
  | (k, x) :: rest, a, b, v, h => by
    have ih := cellsRead_write_other rest v h
    unfold cellsWrite
    by_cases hak : a < k
    · by_cases hv : v = 0#8 <;> simp [hak, hv, cellsRead, h]
    · by_cases hek : a = k
      · subst hek
        by_cases hv : v = 0#8 <;> simp [hv, cellsRead, h]
      · simp [hak, hek, cellsRead, ih]

theorem cellsRead_write_same : ∀ {cs : List Host.Cell} {lo : Nat} (a : Nat) (v : Byte), cellsWf lo cs = true →
    cellsRead (cellsWrite cs a v) a = v
  | [], _, a, v, _ => by by_cases hv : v = 0#8 <;> simp [cellsWrite, cellsRead, hv]
  | (k, x) :: rest, lo, a, v, hw => by
    simp only [cellsWf, Bool.and_eq_true, decide_eq_true_eq] at hw
    have ih := cellsRead_write_same a v hw.2
    unfold cellsWrite
    by_cases hak : a < k
    · by_cases hv : v = 0#8
      · have hne : k ≠ a := by omega
        simp only [hak, hv, if_true, cellsRead, hne, if_false]
        exact cellsRead_below hw.2 (by omega)
      · simp [hak, hv, cellsRead]
    · by_cases hek : a = k
      · subst hek
        by_cases hv : v = 0#8
        · simp only [hv, lt_irrefl, if_false, if_true]
          exact cellsRead_below hw.2 (by omega)
        · simp [hv, cellsRead]
      · have hne : k ≠ a := fun h => hek h.symm
        simp [hak, hek, cellsRead, hne, ih]

/-! ## Bytes -/

theorem Memory.write_wf {m : Memory} (a : Addr) (v : Byte) (h : m.wf = true) : (m.write a v).wf = true :=
  cellsWrite_wf v h (Nat.zero_le _) a.isLt

theorem Memory.read_write_same {m : Memory} (a : Addr) (v : Byte) (h : m.wf = true) : (m.write a v).read a = v :=
  cellsRead_write_same _ _ h

theorem Memory.read_write_other (m : Memory) {a b : Addr} (v : Byte) (h : b ≠ a) : (m.write a v).read b = m.read b :=
  cellsRead_write_other _ _ fun e => h (BitVec.eq_of_toNat_eq e.symm)

theorem Memory.writeBytes_wf {m : Memory} (a : Addr) (bs : List Byte) (h : m.wf = true) : (m.writeBytes a bs).wf = true := by
  induction bs generalizing m a with
  | nil => exact h
  | cons b bs ih => exact ih _ (Memory.write_wf a b h)

@[simp] theorem Memory.readBytes_length (m : Memory) (a : Addr) (n : Nat) : (m.readBytes a n).length = n := by
  induction n generalizing a with
  | zero => rfl
  | succ n ih => simp [Memory.readBytes, ih]

theorem Memory.readBytes_add (m : Memory) (a : Addr) (n k : Nat) :
    m.readBytes a (n + k) = m.readBytes a n ++ m.readBytes (a + BitVec.ofNat 16 n) k := by
  induction n generalizing a with
  | zero => simp [Memory.readBytes]
  | succ n ih =>
    have hs : a + 1 + BitVec.ofNat 16 n = a + BitVec.ofNat 16 (n + 1) := by
      apply BitVec.eq_of_toNat_eq; simp; omega
    rw [Nat.add_right_comm, Memory.readBytes, Memory.readBytes, ih, hs]
    rfl

/-- The frame of a store: a byte that is none of the stored ones reads as before. -/
theorem Memory.read_writeBytes_other (m : Memory) (a b : Addr) (bs : List Byte)
    (h : ∀ k, k < bs.length → b ≠ a + BitVec.ofNat 16 k) : (m.writeBytes a bs).read b = m.read b := by
  induction bs generalizing m a with
  | nil => rfl
  | cons c bs ih =>
    have h0 : b ≠ a := by simpa using h 0 (by simp)
    rw [Memory.writeBytes, ih, Memory.read_write_other _ _ h0]
    intro k hk hb
    apply h (k + 1) (by simpa using hk)
    rw [hb]
    apply BitVec.eq_of_toNat_eq
    simp
    omega

/-- A read after a write of at most 65536 bytes gives the bytes written. -/
theorem Memory.readBytes_writeBytes {m : Memory} (a : Addr) (bs : List Byte) (h : m.wf = true) (hl : bs.length ≤ 65536) :
    (m.writeBytes a bs).readBytes a bs.length = bs := by
  induction bs generalizing m a with
  | nil => rfl
  | cons c bs ih =>
    simp only [List.length_cons] at hl
    rw [List.length_cons, Memory.readBytes, Memory.writeBytes, ih (a + 1) (Memory.write_wf a c h) (by omega)]
    congr 1
    rw [Memory.read_writeBytes_other, Memory.read_write_same a c h]
    intro k hk e
    have := congrArg BitVec.toNat e
    simp at this
    omega

/-! ## The primitives -/

/-- Everything a read can do (R51, R54). -/
theorem memRead_ok {P : Params} {m : Memory} {a : Addr} {n : Nat} {v : Word} (h : memRead P m a n = .ok v) :
    crossesTop P a n = false ∧ v = BitVec.ofNat 32 (beValue (m.readBytes a n)) := by
  unfold memRead at h
  split at h
  · cases h
  · rename_i hc
    exact ⟨by simpa using hc, by simpa using h.symm⟩

/-- Everything a write can do (R52, R54). -/
theorem memWrite_ok {P : Params} {m m' : Memory} {a : Addr} {n : Nat} {v : Word} (h : memWrite P m a n v = .ok m') :
    crossesTop P a n = false ∧ m' = m.writeBytes a (beBytes n v.toNat) := by
  unfold memWrite at h
  split at h
  · cases h
  · rename_i hc
    exact ⟨by simpa using hc, by simpa using h.symm⟩

theorem memRead_error {P : Params} {m : Memory} {a : Addr} {n : Nat} {f : ModelFault} (h : memRead P m a n = .error f) :
    crossesTop P a n = true ∧ f = .crossTopAccess a n := by
  unfold memRead at h
  split at h
  · exact ⟨‹_›, by simpa using h.symm⟩
  · cases h

theorem memWrite_error {P : Params} {m : Memory} {a : Addr} {n : Nat} {v : Word} {f : ModelFault}
    (h : memWrite P m a n v = .error f) : crossesTop P a n = true ∧ f = .crossTopAccess a n := by
  unfold memWrite at h
  split at h
  · exact ⟨‹_›, by simpa using h.symm⟩
  · cases h

theorem memWrite_wf {P : Params} {m m' : Memory} {a : Addr} {n : Nat} {v : Word} (h : memWrite P m a n v = .ok m')
    (hw : m.wf = true) : m'.wf = true := by
  rw [(memWrite_ok h).2]
  exact Memory.writeBytes_wf _ _ hw

theorem memWrite_frame {P : Params} {m m' : Memory} {a b : Addr} {n : Nat} {v : Word} (h : memWrite P m a n v = .ok m')
    (hb : ∀ k, k < n → b ≠ a + BitVec.ofNat 16 k) : m'.read b = m.read b := by
  rw [(memWrite_ok h).2]
  exact Memory.read_writeBytes_other _ _ _ _ (by simpa using hb)

theorem State.reset_mem_wf : State.reset.mem.wf = true := rfl

theorem placeWord_wf {s : State} (nbits w : Nat) (h : s.mem.wf = true) : (placeWord s nbits w).mem.wf = true :=
  Memory.writeBytes_wf _ _ h

end Sys2Proof.Machine
end

