-- ==== Sys2Proof/Laws/State.lean ====
section
/-! SUPPORT. What each field of State reads after each named update: true by definition, so that no later proof
unfolds a record update. -/

namespace Sys2Proof.Machine

variable (s : State)

@[simp] theorem State.setRegs_regs (r : Vector Byte 35) : (s.setRegs r).regs = r := rfl
@[simp] theorem State.setRegs_pc (r : Vector Byte 35) : (s.setRegs r).pc = s.pc := rfl
@[simp] theorem State.setRegs_sp (r : Vector Byte 35) : (s.setRegs r).sp = s.sp := rfl
@[simp] theorem State.setRegs_skipNext (r : Vector Byte 35) : (s.setRegs r).skipNext = s.skipNext := rfl
@[simp] theorem State.setRegs_skipActive (r : Vector Byte 35) : (s.setRegs r).skipActive = s.skipActive := rfl
@[simp] theorem State.setRegs_mem (r : Vector Byte 35) : (s.setRegs r).mem = s.mem := rfl
@[simp] theorem State.setRegs_hookBrk (r : Vector Byte 35) : (s.setRegs r).hookBrk = s.hookBrk := rfl
@[simp] theorem State.setRegs_hookInt (r : Vector Byte 35) : (s.setRegs r).hookInt = s.hookInt := rfl
@[simp] theorem State.setRegs_faulted (r : Vector Byte 35) : (s.setRegs r).faulted = s.faulted := rfl
@[simp] theorem State.setRegs_stopped (r : Vector Byte 35) : (s.setRegs r).stopped = s.stopped := rfl
@[simp] theorem State.setRegs_events (r : Vector Byte 35) : (s.setRegs r).events = s.events := rfl
@[simp] theorem State.setRegs_hostAnswers (r : Vector Byte 35) : (s.setRegs r).hostAnswers = s.hostAnswers := rfl

@[simp] theorem State.setPc_regs (a : Addr) : (s.setPc a).regs = s.regs := rfl
@[simp] theorem State.setPc_pc (a : Addr) : (s.setPc a).pc = a := rfl
@[simp] theorem State.setPc_sp (a : Addr) : (s.setPc a).sp = s.sp := rfl
@[simp] theorem State.setPc_skipNext (a : Addr) : (s.setPc a).skipNext = s.skipNext := rfl
@[simp] theorem State.setPc_skipActive (a : Addr) : (s.setPc a).skipActive = s.skipActive := rfl
@[simp] theorem State.setPc_mem (a : Addr) : (s.setPc a).mem = s.mem := rfl
@[simp] theorem State.setPc_hookBrk (a : Addr) : (s.setPc a).hookBrk = s.hookBrk := rfl
@[simp] theorem State.setPc_hookInt (a : Addr) : (s.setPc a).hookInt = s.hookInt := rfl
@[simp] theorem State.setPc_faulted (a : Addr) : (s.setPc a).faulted = s.faulted := rfl
@[simp] theorem State.setPc_stopped (a : Addr) : (s.setPc a).stopped = s.stopped := rfl
@[simp] theorem State.setPc_events (a : Addr) : (s.setPc a).events = s.events := rfl
@[simp] theorem State.setPc_hostAnswers (a : Addr) : (s.setPc a).hostAnswers = s.hostAnswers := rfl

@[simp] theorem State.setSp_regs (a : Addr) : (s.setSp a).regs = s.regs := rfl
@[simp] theorem State.setSp_pc (a : Addr) : (s.setSp a).pc = s.pc := rfl
@[simp] theorem State.setSp_sp (a : Addr) : (s.setSp a).sp = a := rfl
@[simp] theorem State.setSp_skipNext (a : Addr) : (s.setSp a).skipNext = s.skipNext := rfl
@[simp] theorem State.setSp_skipActive (a : Addr) : (s.setSp a).skipActive = s.skipActive := rfl
@[simp] theorem State.setSp_mem (a : Addr) : (s.setSp a).mem = s.mem := rfl
@[simp] theorem State.setSp_hookBrk (a : Addr) : (s.setSp a).hookBrk = s.hookBrk := rfl
@[simp] theorem State.setSp_hookInt (a : Addr) : (s.setSp a).hookInt = s.hookInt := rfl
@[simp] theorem State.setSp_faulted (a : Addr) : (s.setSp a).faulted = s.faulted := rfl
@[simp] theorem State.setSp_stopped (a : Addr) : (s.setSp a).stopped = s.stopped := rfl
@[simp] theorem State.setSp_events (a : Addr) : (s.setSp a).events = s.events := rfl
@[simp] theorem State.setSp_hostAnswers (a : Addr) : (s.setSp a).hostAnswers = s.hostAnswers := rfl

@[simp] theorem State.setMem_regs (m : Memory) : (s.setMem m).regs = s.regs := rfl
@[simp] theorem State.setMem_pc (m : Memory) : (s.setMem m).pc = s.pc := rfl
@[simp] theorem State.setMem_sp (m : Memory) : (s.setMem m).sp = s.sp := rfl
@[simp] theorem State.setMem_skipNext (m : Memory) : (s.setMem m).skipNext = s.skipNext := rfl
@[simp] theorem State.setMem_skipActive (m : Memory) : (s.setMem m).skipActive = s.skipActive := rfl
@[simp] theorem State.setMem_mem (m : Memory) : (s.setMem m).mem = m := rfl
@[simp] theorem State.setMem_hookBrk (m : Memory) : (s.setMem m).hookBrk = s.hookBrk := rfl
@[simp] theorem State.setMem_hookInt (m : Memory) : (s.setMem m).hookInt = s.hookInt := rfl
@[simp] theorem State.setMem_faulted (m : Memory) : (s.setMem m).faulted = s.faulted := rfl
@[simp] theorem State.setMem_stopped (m : Memory) : (s.setMem m).stopped = s.stopped := rfl
@[simp] theorem State.setMem_events (m : Memory) : (s.setMem m).events = s.events := rfl
@[simp] theorem State.setMem_hostAnswers (m : Memory) : (s.setMem m).hostAnswers = s.hostAnswers := rfl

@[simp] theorem State.setSkips_regs (n x : Bool) : (s.setSkips n x).regs = s.regs := rfl
@[simp] theorem State.setSkips_pc (n x : Bool) : (s.setSkips n x).pc = s.pc := rfl
@[simp] theorem State.setSkips_sp (n x : Bool) : (s.setSkips n x).sp = s.sp := rfl
@[simp] theorem State.setSkips_skipNext (n x : Bool) : (s.setSkips n x).skipNext = n := rfl
@[simp] theorem State.setSkips_skipActive (n x : Bool) : (s.setSkips n x).skipActive = x := rfl
@[simp] theorem State.setSkips_mem (n x : Bool) : (s.setSkips n x).mem = s.mem := rfl
@[simp] theorem State.setSkips_hookBrk (n x : Bool) : (s.setSkips n x).hookBrk = s.hookBrk := rfl
@[simp] theorem State.setSkips_hookInt (n x : Bool) : (s.setSkips n x).hookInt = s.hookInt := rfl
@[simp] theorem State.setSkips_faulted (n x : Bool) : (s.setSkips n x).faulted = s.faulted := rfl
@[simp] theorem State.setSkips_stopped (n x : Bool) : (s.setSkips n x).stopped = s.stopped := rfl
@[simp] theorem State.setSkips_events (n x : Bool) : (s.setSkips n x).events = s.events := rfl
@[simp] theorem State.setSkips_hostAnswers (n x : Bool) : (s.setSkips n x).hostAnswers = s.hostAnswers := rfl

@[simp] theorem State.setFaulted_regs (f : Option (ModelFault × Addr)) : (s.setFaulted f).regs = s.regs := rfl
@[simp] theorem State.setFaulted_pc (f : Option (ModelFault × Addr)) : (s.setFaulted f).pc = s.pc := rfl
@[simp] theorem State.setFaulted_sp (f : Option (ModelFault × Addr)) : (s.setFaulted f).sp = s.sp := rfl
@[simp] theorem State.setFaulted_skipNext (f : Option (ModelFault × Addr)) : (s.setFaulted f).skipNext = s.skipNext := rfl
@[simp] theorem State.setFaulted_skipActive (f : Option (ModelFault × Addr)) : (s.setFaulted f).skipActive = s.skipActive := rfl
@[simp] theorem State.setFaulted_mem (f : Option (ModelFault × Addr)) : (s.setFaulted f).mem = s.mem := rfl
@[simp] theorem State.setFaulted_hookBrk (f : Option (ModelFault × Addr)) : (s.setFaulted f).hookBrk = s.hookBrk := rfl
@[simp] theorem State.setFaulted_hookInt (f : Option (ModelFault × Addr)) : (s.setFaulted f).hookInt = s.hookInt := rfl
@[simp] theorem State.setFaulted_faulted (f : Option (ModelFault × Addr)) : (s.setFaulted f).faulted = f := rfl
@[simp] theorem State.setFaulted_stopped (f : Option (ModelFault × Addr)) : (s.setFaulted f).stopped = s.stopped := rfl
@[simp] theorem State.setFaulted_events (f : Option (ModelFault × Addr)) : (s.setFaulted f).events = s.events := rfl
@[simp] theorem State.setFaulted_hostAnswers (f : Option (ModelFault × Addr)) : (s.setFaulted f).hostAnswers = s.hostAnswers := rfl

@[simp] theorem State.setStopped_regs (e : Option HostEvent) : (s.setStopped e).regs = s.regs := rfl
@[simp] theorem State.setStopped_pc (e : Option HostEvent) : (s.setStopped e).pc = s.pc := rfl
@[simp] theorem State.setStopped_sp (e : Option HostEvent) : (s.setStopped e).sp = s.sp := rfl
@[simp] theorem State.setStopped_skipNext (e : Option HostEvent) : (s.setStopped e).skipNext = s.skipNext := rfl
@[simp] theorem State.setStopped_skipActive (e : Option HostEvent) : (s.setStopped e).skipActive = s.skipActive := rfl
@[simp] theorem State.setStopped_mem (e : Option HostEvent) : (s.setStopped e).mem = s.mem := rfl
@[simp] theorem State.setStopped_hookBrk (e : Option HostEvent) : (s.setStopped e).hookBrk = s.hookBrk := rfl
@[simp] theorem State.setStopped_hookInt (e : Option HostEvent) : (s.setStopped e).hookInt = s.hookInt := rfl
@[simp] theorem State.setStopped_faulted (e : Option HostEvent) : (s.setStopped e).faulted = s.faulted := rfl
@[simp] theorem State.setStopped_stopped (e : Option HostEvent) : (s.setStopped e).stopped = e := rfl
@[simp] theorem State.setStopped_events (e : Option HostEvent) : (s.setStopped e).events = s.events := rfl
@[simp] theorem State.setStopped_hostAnswers (e : Option HostEvent) : (s.setStopped e).hostAnswers = s.hostAnswers := rfl

@[simp] theorem State.emit_regs (e : HostEvent) : (s.emit e).regs = s.regs := rfl
@[simp] theorem State.emit_pc (e : HostEvent) : (s.emit e).pc = s.pc := rfl
@[simp] theorem State.emit_sp (e : HostEvent) : (s.emit e).sp = s.sp := rfl
@[simp] theorem State.emit_skipNext (e : HostEvent) : (s.emit e).skipNext = s.skipNext := rfl
@[simp] theorem State.emit_skipActive (e : HostEvent) : (s.emit e).skipActive = s.skipActive := rfl
@[simp] theorem State.emit_mem (e : HostEvent) : (s.emit e).mem = s.mem := rfl
@[simp] theorem State.emit_hookBrk (e : HostEvent) : (s.emit e).hookBrk = s.hookBrk := rfl
@[simp] theorem State.emit_hookInt (e : HostEvent) : (s.emit e).hookInt = s.hookInt := rfl
@[simp] theorem State.emit_faulted (e : HostEvent) : (s.emit e).faulted = s.faulted := rfl
@[simp] theorem State.emit_stopped (e : HostEvent) : (s.emit e).stopped = s.stopped := rfl
@[simp] theorem State.emit_events (e : HostEvent) : (s.emit e).events = s.events ++ [e] := rfl
@[simp] theorem State.emit_hostAnswers (e : HostEvent) : (s.emit e).hostAnswers = s.hostAnswers.tail := rfl

@[simp] theorem State.fetched_regs : (s.fetched).regs = s.regs := rfl
@[simp] theorem State.fetched_pc : (s.fetched).pc = s.pc + 1 := rfl
@[simp] theorem State.fetched_sp : (s.fetched).sp = s.sp := rfl
@[simp] theorem State.fetched_skipNext : (s.fetched).skipNext = s.skipNext := rfl
@[simp] theorem State.fetched_skipActive : (s.fetched).skipActive = s.skipActive := rfl
@[simp] theorem State.fetched_mem : (s.fetched).mem = s.mem := rfl
@[simp] theorem State.fetched_hookBrk : (s.fetched).hookBrk = s.hookBrk := rfl
@[simp] theorem State.fetched_hookInt : (s.fetched).hookInt = s.hookInt := rfl
@[simp] theorem State.fetched_faulted : (s.fetched).faulted = s.faulted := rfl
@[simp] theorem State.fetched_stopped : (s.fetched).stopped = s.stopped := rfl
@[simp] theorem State.fetched_events : (s.fetched).events = s.events := rfl
@[simp] theorem State.fetched_hostAnswers : (s.fetched).hostAnswers = s.hostAnswers := rfl

@[simp] theorem State.raise_regs (f : ModelFault) : (s.raise f).regs = s.regs := rfl
@[simp] theorem State.raise_pc (f : ModelFault) : (s.raise f).pc = s.pc := rfl
@[simp] theorem State.raise_sp (f : ModelFault) : (s.raise f).sp = s.sp := rfl
@[simp] theorem State.raise_skipNext (f : ModelFault) : (s.raise f).skipNext = s.skipNext := rfl
@[simp] theorem State.raise_skipActive (f : ModelFault) : (s.raise f).skipActive = s.skipActive := rfl
@[simp] theorem State.raise_mem (f : ModelFault) : (s.raise f).mem = s.mem := rfl
@[simp] theorem State.raise_hookBrk (f : ModelFault) : (s.raise f).hookBrk = s.hookBrk := rfl
@[simp] theorem State.raise_hookInt (f : ModelFault) : (s.raise f).hookInt = s.hookInt := rfl
@[simp] theorem State.raise_faulted (f : ModelFault) : (s.raise f).faulted = some (f, s.pc) := rfl
@[simp] theorem State.raise_stopped (f : ModelFault) : (s.raise f).stopped = s.stopped := rfl
@[simp] theorem State.raise_events (f : ModelFault) : (s.raise f).events = s.events := rfl
@[simp] theorem State.raise_hostAnswers (f : ModelFault) : (s.raise f).hostAnswers = s.hostAnswers := rfl

@[simp] theorem State.skipIf_regs (c : Bool) : (s.skipIf c).regs = s.regs := rfl
@[simp] theorem State.skipIf_pc (c : Bool) : (s.skipIf c).pc = s.pc := rfl
@[simp] theorem State.skipIf_sp (c : Bool) : (s.skipIf c).sp = s.sp := rfl
@[simp] theorem State.skipIf_skipNext (c : Bool) : (s.skipIf c).skipNext = (s.skipNext || c) := rfl
@[simp] theorem State.skipIf_skipActive (c : Bool) : (s.skipIf c).skipActive = s.skipActive := rfl
@[simp] theorem State.skipIf_mem (c : Bool) : (s.skipIf c).mem = s.mem := rfl
@[simp] theorem State.skipIf_hookBrk (c : Bool) : (s.skipIf c).hookBrk = s.hookBrk := rfl
@[simp] theorem State.skipIf_hookInt (c : Bool) : (s.skipIf c).hookInt = s.hookInt := rfl
@[simp] theorem State.skipIf_faulted (c : Bool) : (s.skipIf c).faulted = s.faulted := rfl
@[simp] theorem State.skipIf_stopped (c : Bool) : (s.skipIf c).stopped = s.stopped := rfl
@[simp] theorem State.skipIf_events (c : Bool) : (s.skipIf c).events = s.events := rfl
@[simp] theorem State.skipIf_hostAnswers (c : Bool) : (s.skipIf c).hostAnswers = s.hostAnswers := rfl

@[simp] theorem State.latchSkip_regs : (s.latchSkip).regs = s.regs := rfl
@[simp] theorem State.latchSkip_pc : (s.latchSkip).pc = s.pc := rfl
@[simp] theorem State.latchSkip_sp : (s.latchSkip).sp = s.sp := rfl
@[simp] theorem State.latchSkip_skipNext : (s.latchSkip).skipNext = false := rfl
@[simp] theorem State.latchSkip_skipActive : (s.latchSkip).skipActive = s.skipNext := rfl
@[simp] theorem State.latchSkip_mem : (s.latchSkip).mem = s.mem := rfl
@[simp] theorem State.latchSkip_hookBrk : (s.latchSkip).hookBrk = s.hookBrk := rfl
@[simp] theorem State.latchSkip_hookInt : (s.latchSkip).hookInt = s.hookInt := rfl
@[simp] theorem State.latchSkip_faulted : (s.latchSkip).faulted = s.faulted := rfl
@[simp] theorem State.latchSkip_stopped : (s.latchSkip).stopped = s.stopped := rfl
@[simp] theorem State.latchSkip_events : (s.latchSkip).events = s.events := rfl
@[simp] theorem State.latchSkip_hostAnswers : (s.latchSkip).hostAnswers = s.hostAnswers := rfl

@[simp] theorem State.regWrite_regs (c : BitVec 5) (n : Nat) (v : Word) : (s.regWrite c n v).regs = regStore s.regs c.toNat (beBytes n v.toNat) := rfl
@[simp] theorem State.regWrite_pc (c : BitVec 5) (n : Nat) (v : Word) : (s.regWrite c n v).pc = s.pc := rfl
@[simp] theorem State.regWrite_sp (c : BitVec 5) (n : Nat) (v : Word) : (s.regWrite c n v).sp = s.sp := rfl
@[simp] theorem State.regWrite_skipNext (c : BitVec 5) (n : Nat) (v : Word) : (s.regWrite c n v).skipNext = s.skipNext := rfl
@[simp] theorem State.regWrite_skipActive (c : BitVec 5) (n : Nat) (v : Word) : (s.regWrite c n v).skipActive = s.skipActive := rfl
@[simp] theorem State.regWrite_mem (c : BitVec 5) (n : Nat) (v : Word) : (s.regWrite c n v).mem = s.mem := rfl
@[simp] theorem State.regWrite_hookBrk (c : BitVec 5) (n : Nat) (v : Word) : (s.regWrite c n v).hookBrk = s.hookBrk := rfl
@[simp] theorem State.regWrite_hookInt (c : BitVec 5) (n : Nat) (v : Word) : (s.regWrite c n v).hookInt = s.hookInt := rfl
@[simp] theorem State.regWrite_faulted (c : BitVec 5) (n : Nat) (v : Word) : (s.regWrite c n v).faulted = s.faulted := rfl
@[simp] theorem State.regWrite_stopped (c : BitVec 5) (n : Nat) (v : Word) : (s.regWrite c n v).stopped = s.stopped := rfl
@[simp] theorem State.regWrite_events (c : BitVec 5) (n : Nat) (v : Word) : (s.regWrite c n v).events = s.events := rfl
@[simp] theorem State.regWrite_hostAnswers (c : BitVec 5) (n : Nat) (v : Word) : (s.regWrite c n v).hostAnswers = s.hostAnswers := rfl

@[simp] theorem State.raise_hookInstalled (f : ModelFault) (k : HostKind) :
    (s.raise f).hookInstalled k = s.hookInstalled k := by cases k <;> rfl

@[simp] theorem State.fetched_hookInstalled (k : HostKind) : s.fetched.hookInstalled k = s.hookInstalled k := by
  cases k <;> rfl

@[simp] theorem State.setMem_self : s.setMem s.mem = s := rfl
@[simp] theorem State.setRegs_self : s.setRegs s.regs = s := rfl

@[simp] theorem State.specialWrite_regs (c : BitVec 5) (v : Addr) : (s.specialWrite c v).regs = s.regs := by
  unfold State.specialWrite; split <;> rfl
@[simp] theorem State.specialWrite_skipNext (c : BitVec 5) (v : Addr) : (s.specialWrite c v).skipNext = s.skipNext := by
  unfold State.specialWrite; split <;> rfl
@[simp] theorem State.specialWrite_skipActive (c : BitVec 5) (v : Addr) : (s.specialWrite c v).skipActive = s.skipActive := by
  unfold State.specialWrite; split <;> rfl
@[simp] theorem State.specialWrite_mem (c : BitVec 5) (v : Addr) : (s.specialWrite c v).mem = s.mem := by
  unfold State.specialWrite; split <;> rfl
@[simp] theorem State.specialWrite_hookBrk (c : BitVec 5) (v : Addr) : (s.specialWrite c v).hookBrk = s.hookBrk := by
  unfold State.specialWrite; split <;> rfl
@[simp] theorem State.specialWrite_hookInt (c : BitVec 5) (v : Addr) : (s.specialWrite c v).hookInt = s.hookInt := by
  unfold State.specialWrite; split <;> rfl
@[simp] theorem State.specialWrite_faulted (c : BitVec 5) (v : Addr) : (s.specialWrite c v).faulted = s.faulted := by
  unfold State.specialWrite; split <;> rfl
@[simp] theorem State.specialWrite_stopped (c : BitVec 5) (v : Addr) : (s.specialWrite c v).stopped = s.stopped := by
  unfold State.specialWrite; split <;> rfl
@[simp] theorem State.specialWrite_events (c : BitVec 5) (v : Addr) : (s.specialWrite c v).events = s.events := by
  unfold State.specialWrite; split <;> rfl
@[simp] theorem State.specialWrite_hostAnswers (c : BitVec 5) (v : Addr) : (s.specialWrite c v).hostAnswers = s.hostAnswers := by
  unfold State.specialWrite; split <;> rfl

theorem State.specialWrite_zero (v : Addr) : s.specialWrite 0 v = s.setPc v := rfl
theorem State.specialWrite_one (v : Addr) : s.specialWrite 1 v = s.setSp v := rfl

@[simp] theorem advance_regs (P : Params) (n : Nat) (b : Bool) : (advance P n b s).regs = s.regs := by
  unfold advance; split <;> rfl
@[simp] theorem advance_sp (P : Params) (n : Nat) (b : Bool) : (advance P n b s).sp = s.sp := by
  unfold advance; split <;> rfl
@[simp] theorem advance_skipNext (P : Params) (n : Nat) (b : Bool) : (advance P n b s).skipNext = s.skipNext := by
  unfold advance; split <;> rfl
@[simp] theorem advance_skipActive (P : Params) (n : Nat) (b : Bool) : (advance P n b s).skipActive = s.skipActive := by
  unfold advance; split <;> rfl
@[simp] theorem advance_mem (P : Params) (n : Nat) (b : Bool) : (advance P n b s).mem = s.mem := by
  unfold advance; split <;> rfl
@[simp] theorem advance_hookBrk (P : Params) (n : Nat) (b : Bool) : (advance P n b s).hookBrk = s.hookBrk := by
  unfold advance; split <;> rfl
@[simp] theorem advance_hookInt (P : Params) (n : Nat) (b : Bool) : (advance P n b s).hookInt = s.hookInt := by
  unfold advance; split <;> rfl
@[simp] theorem advance_faulted (P : Params) (n : Nat) (b : Bool) : (advance P n b s).faulted = s.faulted := by
  unfold advance; split <;> rfl
@[simp] theorem advance_stopped (P : Params) (n : Nat) (b : Bool) : (advance P n b s).stopped = s.stopped := by
  unfold advance; split <;> rfl
@[simp] theorem advance_events (P : Params) (n : Nat) (b : Bool) : (advance P n b s).events = s.events := by
  unfold advance; split <;> rfl
@[simp] theorem advance_hostAnswers (P : Params) (n : Nat) (b : Bool) : (advance P n b s).hostAnswers = s.hostAnswers := by
  unfold advance; split <;> rfl

end Sys2Proof.Machine
end

