-- ==== Sys2Proof/Laws/Registers.lean ====
section
/-! SUPPORT. The register file: a read after a write of the same code and width, and the bytes a write leaves alone
(10_state R22, R23). -/

namespace Sys2Proof.Machine

theorem regByte_set (r : Vector Byte 35) (i j : Nat) (b : Byte) (hi : i < 35) :
    regByte (r.setIfInBounds i b) j = if i = j then b else regByte r j := by
  unfold regByte
  rw [Vector.getElem?_setIfInBounds]
  by_cases h : i = j
  · subst h; simp [hi]
  · simp [h]

theorem regByte_set_other (r : Vector Byte 35) {i j : Nat} (b : Byte) (h : i ≠ j) :
    regByte (r.setIfInBounds i b) j = regByte r j := by
  unfold regByte
  rw [Vector.getElem?_setIfInBounds, if_neg h]

/-- The frame of a register store. -/
theorem regByte_regStore_other (r : Vector Byte 35) (i j : Nat) (bs : List Byte) (h : j < i ∨ i + bs.length ≤ j) :
    regByte (regStore r i bs) j = regByte r j := by
  induction bs generalizing r i with
  | nil => rfl
  | cons b bs ih =>
    simp only [List.length_cons] at h
    rw [regStore, ih _ _ (by omega), regByte_set_other _ _ (by omega)]

@[simp] theorem regBytes_length (r : Vector Byte 35) (i n : Nat) : (regBytes r i n).length = n := by
  induction n generalizing i with
  | zero => rfl
  | succ n ih => simp [regBytes, ih]

theorem regBytes_regStore (r : Vector Byte 35) (i : Nat) (bs : List Byte) (h : i + bs.length ≤ 35) :
    regBytes (regStore r i bs) i bs.length = bs := by
  induction bs generalizing r i with
  | nil => rfl
  | cons b bs ih =>
    simp only [List.length_cons] at h
    rw [List.length_cons, regBytes, regStore, ih _ _ (by omega), regByte_regStore_other _ _ _ _ (by omega),
      regByte_set _ _ _ _ (by omega), if_pos rfl]

/-- What a register reads after it is written (R22): the value modulo 256^n. -/
theorem State.regRead_regWrite (s : State) (c : BitVec 5) (n : Nat) (v : Word) (hn : n ≤ 4) :
    (s.regWrite c n v).regRead c n = BitVec.ofNat 32 (v.toNat % 256 ^ n) := by
  have h := regBytes_regStore s.regs c.toNat (beBytes n v.toNat) (by have := c.isLt; simp; omega)
  rw [beBytes_length] at h
  rw [State.regRead, State.regWrite_regs, h, beValue_beBytes]

/-- The bytes of the register file a register write leaves alone (R116). -/
theorem State.regWrite_frame (s : State) (c : BitVec 5) (n : Nat) (v : Word) (j : Nat)
    (h : j < c.toNat ∨ c.toNat + n ≤ j) : regByte (s.regWrite c n v).regs j = regByte s.regs j := by
  rw [State.regWrite_regs]
  exact regByte_regStore_other _ _ _ _ (by simpa using h)

end Sys2Proof.Machine
end

