-- ==== Sys2Proof/Laws/Operands.lean ====
section
/-! SUPPORT. What the resolver and the committer can do, once over the eight forms (40_operands R100 to R121). -/

namespace Sys2Proof.Machine

variable {P : Params} {s t : State} {ip0 : Addr} {off : Nat} {w : Width} {v : Word} {o : Operand}

/-- A form that is no pointer reaches no address. -/
theorem pointerAddr_none (h : pointerAddr P s ip0 off o = .ok none) :
    (∃ c, o = .inline c) ∨ (∃ c x, o = .literal c x) ∨ (∃ c, o = .reg c) ∨ ∃ c, o = .special c := by
  cases o with
  | inline c => exact .inl ⟨c, rfl⟩
  | literal c x => exact .inr (.inl ⟨c, x, rfl⟩)
  | reg c => exact .inr (.inr (.inl ⟨c, rfl⟩))
  | special c => exact .inr (.inr (.inr ⟨c, rfl⟩))
  | inlinePtr c => simp [pointerAddr] at h
  | regPtr c => simp [pointerAddr] at h
  | literalPtr c x => simp only [pointerAddr] at h; split at h <;> simp at h
  | specialPtr c => simp only [pointerAddr] at h; split at h <;> simp at h

/-- Everything a load through a pointer can do. -/
theorem loadThrough_ok {r : Resolved} (h : loadThrough P s ip0 off w o = .ok r) :
    (pointerAddr P s ip0 off o = .ok none ∧ r = ⟨0, operandLen w o, none⟩) ∨
    ∃ ea x, pointerAddr P s ip0 off o = .ok (some ea) ∧ memRead P s.mem ea w.bytes = .ok x ∧
      r = ⟨x, operandLen w o, some ea⟩ := by
  unfold loadThrough at h
  split at h
  · cases h
  · rename_i hp
    exact .inl ⟨hp, by simpa using h.symm⟩
  · rename_i ea hp
    split at h
    · cases h
    · rename_i x hx
      exact .inr ⟨ea, x, hp, hx, by simpa using h.symm⟩

/-- The resolver reports the length of the encoding (R111). -/
theorem resolve_len {r : Resolved} (h : resolve P s ip0 off w o = .ok r) : r.len = operandLen w o := by
  have hl : ∀ {o : Operand}, loadThrough P s ip0 off w o = .ok r → r.len = operandLen w o := by
    intro o h
    obtain ⟨-, rfl⟩ | ⟨ea, x, -, -, rfl⟩ := loadThrough_ok h <;> rfl
  cases o with
  | inline c => simp only [resolve, Except.ok.injEq] at h; rw [← h]
  | reg c => simp only [resolve, Except.ok.injEq] at h; rw [← h]
  | literal c x => simp only [resolve] at h; split at h <;> simp at h; rw [← h]
  | special c => simp only [resolve] at h; split at h <;> simp at h; rw [← h]
  | inlinePtr c => exact hl h
  | literalPtr c x => exact hl h
  | regPtr c => exact hl h
  | specialPtr c => exact hl h

/-- Everything a store through a pointer can do. -/
theorem storeThrough_ok (h : storeThrough P s ip0 off w v o = .ok t) :
    (pointerAddr P s ip0 off o = .ok none ∧ t = s) ∨
    ∃ ea m, pointerAddr P s ip0 off o = .ok (some ea) ∧ memWrite P s.mem ea w.bytes v = .ok m ∧ t = s.setMem m := by
  unfold storeThrough at h
  split at h
  · cases h
  · rename_i hp
    exact .inl ⟨hp, by simpa using h.symm⟩
  · rename_i ea hp
    split at h
    · cases h
    · rename_i m hm
      exact .inr ⟨ea, m, hp, hm, by simpa using h.symm⟩

/-- Everything a commit can do (R113): nothing for a constant; a register; PC or SP; or the w bytes at the address of
the pointer. -/
theorem commitTo_ok (h : commitTo P s ip0 off w v o = .ok t) :
    (((∃ c, o = .inline c) ∨ ∃ c x, o = .literal c x) ∧ t = s) ∨
    (∃ r, o = .reg r ∧ t = s.regWrite r w.bytes v) ∨
    (∃ c, o = .special c ∧ c.toNat < 2 ∧ t = s.specialWrite c (specialField w v)) ∨
    ∃ ea m, pointerAddr P s ip0 off o = .ok (some ea) ∧ memWrite P s.mem ea w.bytes v = .ok m ∧ t = s.setMem m := by
  have hp : ∀ {o : Operand}, (¬ ∃ c, o = .inline c) → (¬ ∃ c x, o = .literal c x) → (¬ ∃ c, o = .reg c) →
      (¬ ∃ c, o = .special c) → storeThrough P s ip0 off w v o = .ok t →
      ∃ ea m, pointerAddr P s ip0 off o = .ok (some ea) ∧ memWrite P s.mem ea w.bytes v = .ok m ∧ t = s.setMem m := by
    intro o h1 h2 h3 h4 h
    obtain ⟨hn, -⟩ | h := storeThrough_ok h
    · rcases pointerAddr_none hn with h | h | h | h
      exacts [absurd h h1, absurd h h2, absurd h h3, absurd h h4]
    · exact h
  cases o with
  | inline c => exact .inl ⟨.inl ⟨c, rfl⟩, by simpa [commitTo] using h.symm⟩
  | literal c x => exact .inl ⟨.inr ⟨c, x, rfl⟩, by simpa [commitTo] using h.symm⟩
  | reg c => exact .inr (.inl ⟨c, rfl, by simpa [commitTo] using h.symm⟩)
  | special c =>
    simp only [commitTo] at h
    split at h
    · cases h
    · exact .inr (.inr (.inl ⟨c, rfl, by omega, by simpa using h.symm⟩))
  | inlinePtr c => exact .inr (.inr (.inr (hp (by simp) (by simp) (by simp) (by simp) h)))
  | literalPtr c x => exact .inr (.inr (.inr (hp (by simp) (by simp) (by simp) (by simp) h)))
  | regPtr c => exact .inr (.inr (.inr (hp (by simp) (by simp) (by simp) (by simp) h)))
  | specialPtr c => exact .inr (.inr (.inr (hp (by simp) (by simp) (by simp) (by simp) h)))

/-- The fields no commit touches. -/
theorem commitTo_rest (h : commitTo P s ip0 off w v o = .ok t) :
    t.skipNext = s.skipNext ∧ t.skipActive = s.skipActive ∧ t.hookBrk = s.hookBrk ∧ t.hookInt = s.hookInt ∧
      t.faulted = s.faulted ∧ t.stopped = s.stopped ∧ t.events = s.events ∧ t.hostAnswers = s.hostAnswers := by
  obtain ⟨-, rfl⟩ | ⟨r, -, rfl⟩ | ⟨c, -, -, rfl⟩ | ⟨ea, m, -, -, rfl⟩ := commitTo_ok h <;> simp

/-- A commit keeps the canonical form of memory. -/
theorem commitTo_wf (h : commitTo P s ip0 off w v o = .ok t) (hw : s.mem.wf = true) : t.mem.wf = true := by
  obtain ⟨-, rfl⟩ | ⟨r, -, rfl⟩ | ⟨c, -, -, rfl⟩ | ⟨ea, m, -, hm, rfl⟩ := commitTo_ok h
  · exact hw
  · simpa using hw
  · simpa using hw
  · exact memWrite_wf hm hw

end Sys2Proof.Machine
end

