-- ==== Sys2Proof/Laws/Cycle.lean ====
section
/-! SUPPORT. What a cycle can do, said once per cycle shape (41_cycle R130 to R141): it answers a next state, which is
either the state at its start with a model fault recorded, or the finished state of its steps. -/

namespace Sys2Proof.Machine

variable {P : Params} {s t : State} {op : BitVec 6} {w : Width} {a b : Operand}

/-! ## finish -/

section finish
variable (n : Nat) (p : Bool) (u : State)
@[simp] theorem finish_regs : (finish P n p u).regs = u.regs := by simp [finish]
@[simp] theorem finish_sp : (finish P n p u).sp = u.sp := by simp [finish]
@[simp] theorem finish_skipNext : (finish P n p u).skipNext = false := by simp [finish]
@[simp] theorem finish_skipActive : (finish P n p u).skipActive = u.skipNext := by simp [finish]
@[simp] theorem finish_mem : (finish P n p u).mem = u.mem := by simp [finish]
@[simp] theorem finish_hookBrk : (finish P n p u).hookBrk = u.hookBrk := by simp [finish]
@[simp] theorem finish_hookInt : (finish P n p u).hookInt = u.hookInt := by simp [finish]
@[simp] theorem finish_faulted : (finish P n p u).faulted = u.faulted := by simp [finish]
@[simp] theorem finish_stopped : (finish P n p u).stopped = u.stopped := by simp [finish]
@[simp] theorem finish_events : (finish P n p u).events = u.events := by simp [finish]
@[simp] theorem finish_hostAnswers : (finish P n p u).hostAnswers = u.hostAnswers := by simp [finish]

/-- With the decided parameters the advance always applies (R139). -/
@[simp] theorem finish_pc : (finish params n p u).pc = u.pc + BitVec.ofNat 16 n := by
  simp [finish, advance, params]
end finish

/-! ## writeback -/

/-- Everything the writeback mux can do (R136, R138). -/
theorem writeback_ok {ip0 : Addr} {sup : Bool} {d : Dispatched} {u : State} {p : Bool}
    (h : writeback P op ip0 w a sup d = .ok (u, p)) :
    ((inResultBand P op = false ∨ sup = true) ∧ u = d.st ∧ p = d.pcWritten) ∨
    (inResultBand P op = true ∧ sup = false ∧ commitTo P d.st ip0 0 w d.result a = .ok u ∧
      p = (d.pcWritten || writesPc a)) := by
  unfold writeback at h
  split at h
  · rename_i hc
    simp only [Bool.and_eq_true, Bool.not_eq_true'] at hc
    split at h
    · cases h
    · rename_i u' hu
      simp only [Except.ok.injEq, Prod.mk.injEq] at h
      exact .inr ⟨hc.1, hc.2, by rw [hu, h.1], h.2.symm⟩
  · rename_i hc
    simp only [Except.ok.injEq, Prod.mk.injEq] at h
    refine .inl ⟨?_, h.1.symm, h.2.symm⟩
    cases hb : inResultBand P op <;> simp_all

theorem writeback_suppressed {ip0 : Addr} {d : Dispatched} :
    writeback P op ip0 w a true d = .ok (d.st, d.pcWritten) := by simp [writeback]

theorem writeback_outside {ip0 : Addr} {sup : Bool} {d : Dispatched} (h : inResultBand P op = false) :
    writeback P op ip0 w a sup d = .ok (d.st, d.pcWritten) := by simp [writeback, h]

theorem writeback_commits {ip0 : Addr} {d : Dispatched} {u : State} (h : inResultBand P op = true)
    (hc : commitTo P d.st ip0 0 w d.result a = .ok u) :
    writeback P op ip0 w a false d = .ok (u, d.pcWritten || writesPc a) := by simp [writeback, h, hc]

/-! ## settle and the cycles -/

theorem settle_next {r : Except ModelFault State} (h : settle s r = .next t) :
    (∃ f, r = .error f ∧ t = s.raise f) ∨ r = .ok t := by
  unfold settle at h
  split at h <;> simp only [Host.Outcome.next.injEq] at h
  · exact .inr (by rw [h])
  · rename_i f
    exact .inl ⟨f, rfl, h.symm⟩

/-- A cycle always answers a next state: a model fault is recorded in it (R231). -/
theorem settle_answers (r : Except ModelFault State) : ∃ t, settle s r = .next t := by
  unfold settle; split <;> exact ⟨_, rfl⟩

theorem cycleZero_next {dispatch : State → Except ModelFault Dispatched} (h : cycleZero P s dispatch = .next t) :
    (∃ f, t = s.raise f) ∨ ∃ d, dispatch s.fetched = .ok d ∧ t = finish P 0 d.pcWritten d.st := by
  obtain ⟨f, -, rfl⟩ | h := settle_next h
  · exact .inl ⟨f, rfl⟩
  · split at h
    · cases h
    · rename_i d hd
      exact .inr ⟨d, hd, by simpa using h.symm⟩

theorem cycleOne_next {dispatch : State → Resolved → Except ModelFault Dispatched}
    (h : cycleOne P op w a s dispatch = .next t) :
    (∃ f, t = s.raise f) ∨
    ∃ ra d u p, resolve P s.fetched s.fetched.pc 0 w a = .ok ra ∧ dispatch s.fetched ra = .ok d ∧
      writeback P op s.fetched.pc w a s.skipActive d = .ok (u, p) ∧ t = finish P ra.len p u := by
  obtain ⟨f, -, rfl⟩ | h := settle_next h
  · exact .inl ⟨f, rfl⟩
  · split at h
    · cases h
    rename_i ra hra
    split at h
    · cases h
    rename_i d hd
    split at h
    · cases h
    rename_i u p hu
    exact .inr ⟨ra, d, u, p, hra, hd, hu, by simpa using h.symm⟩

theorem cycleOne_completes {dispatch : State → Resolved → Except ModelFault Dispatched} {ra : Resolved}
    {d : Dispatched} {u : State} {p : Bool} (hra : resolve P s.fetched s.fetched.pc 0 w a = .ok ra)
    (hd : dispatch s.fetched ra = .ok d) (hu : writeback P op s.fetched.pc w a s.skipActive d = .ok (u, p)) :
    cycleOne P op w a s dispatch = .next (finish P ra.len p u) := by
  simp only [cycleOne, settle, hra, hd, hu]

theorem resolveTwo_ok {ra rb : Resolved} (h : resolveTwo P s w a b = .ok (ra, rb)) :
    resolve P s s.pc 0 w a = .ok ra ∧ resolve P s s.pc ra.len w b = .ok rb := by
  unfold resolveTwo at h
  split at h
  · cases h
  rename_i ra' hra
  split at h
  · cases h
  rename_i rb' hrb
  simp only [Except.ok.injEq, Prod.mk.injEq] at h
  obtain ⟨rfl, rfl⟩ := h
  exact ⟨hra, hrb⟩

theorem resolveTwo_of {ra rb : Resolved} (ha : resolve P s s.pc 0 w a = .ok ra)
    (hb : resolve P s s.pc ra.len w b = .ok rb) : resolveTwo P s w a b = .ok (ra, rb) := by
  simp only [resolveTwo, ha, hb]

theorem cycleTwo_next {dispatch : State → Resolved → Resolved → Except ModelFault Dispatched}
    (h : cycleTwo P op w a b s dispatch = .next t) :
    (∃ f, t = s.raise f) ∨
    ∃ ra rb d u p, resolveTwo P s.fetched w a b = .ok (ra, rb) ∧ dispatch s.fetched ra rb = .ok d ∧
      writeback P op s.fetched.pc w a s.skipActive d = .ok (u, p) ∧ t = finish P (ra.len + rb.len) p u := by
  obtain ⟨f, -, rfl⟩ | h := settle_next h
  · exact .inl ⟨f, rfl⟩
  · split at h
    · cases h
    rename_i ra rb hr
    split at h
    · cases h
    rename_i d hd
    split at h
    · cases h
    rename_i u p hu
    exact .inr ⟨ra, rb, d, u, p, hr, hd, hu, by simpa using h.symm⟩

theorem cycleTwo_completes {dispatch : State → Resolved → Resolved → Except ModelFault Dispatched} {ra rb : Resolved}
    {d : Dispatched} {u : State} {p : Bool} (hr : resolveTwo P s.fetched w a b = .ok (ra, rb))
    (hd : dispatch s.fetched ra rb = .ok d) (hu : writeback P op s.fetched.pc w a s.skipActive d = .ok (u, p)) :
    cycleTwo P op w a b s dispatch = .next (finish P (ra.len + rb.len) p u) := by
  simp only [cycleTwo, settle, hr, hd, hu]

/-- Everything XCHG's two commits can do (R137). -/
theorem exchange_ok {ip0 : Addr} {lenA : Nat} {x y : Word} {sup : Bool} {u : State} {p : Bool}
    (h : exchange P op ip0 w a lenA x y sup s = .ok (u, p)) :
    ((inResultBand P op = false ∨ sup = true) ∧ u = s ∧ p = false) ∨
    ∃ v, inResultBand P op = true ∧ sup = false ∧ commitTo P s ip0 0 w y a = .ok v ∧
      commitTo P v ip0 lenA w x (operandAt P v.mem (ip0 + BitVec.ofNat 16 lenA) w) = .ok u := by
  unfold exchange at h
  split at h
  · rename_i hc
    simp only [Bool.and_eq_true, Bool.not_eq_true'] at hc
    split at h
    · cases h
    rename_i v hv
    simp only at h
    split at h
    · cases h
    rename_i u' hu
    simp only [Except.ok.injEq, Prod.mk.injEq] at h
    obtain ⟨rfl, -⟩ := h
    exact .inr ⟨v, hc.1, hc.2, hv, hu⟩
  · rename_i hc
    simp only [Except.ok.injEq, Prod.mk.injEq] at h
    refine .inl ⟨?_, h.1.symm, h.2.symm⟩
    cases hb : inResultBand P op <;> simp_all

theorem cycleExchange_next (h : cycleExchange P op w a b s = .next t) :
    (∃ f, t = s.raise f) ∨
    ∃ ra rb u p, resolveTwo P s.fetched w a b = .ok (ra, rb) ∧
      exchange P op s.fetched.pc w a ra.len ra.val rb.val s.skipActive s.fetched = .ok (u, p) ∧
      t = finish P (ra.len + rb.len) p u := by
  obtain ⟨f, -, rfl⟩ | h := settle_next h
  · exact .inl ⟨f, rfl⟩
  · split at h
    · cases h
    rename_i ra rb hr
    split at h
    · cases h
    rename_i u p hu
    exact .inr ⟨ra, rb, u, p, hr, hu, by simpa using h.symm⟩

/-- Everything the host's answer to an escape can do (R160, R161, R236). -/
theorem answerEscape_next {kind : HostKind} {code : Word} {goOn : State → Except ModelFault State}
    (h : answerEscape kind code s goOn = .next t) :
    (s.hookInstalled kind = false ∧ t = s.raise (.hostHookMissing kind)) ∨
    (s.hookInstalled kind = true ∧
      ((s.nextAnswer = .continue ∧
          settle (s.emit ⟨kind, code, s.pc⟩) (goOn (s.fetched.emit ⟨kind, code, s.pc⟩)) = .next t) ∨
       (s.nextAnswer = .stop ∧ t = (s.fetched.emit ⟨kind, code, s.pc⟩).setStopped (some ⟨kind, code, s.pc⟩)) ∨
       (s.nextAnswer = .reenter ∧ t = (s.emit ⟨kind, code, s.pc⟩).raise .reentrantCycle))) := by
  unfold answerEscape at h
  split at h
  · rename_i hk
    refine .inr ⟨hk, ?_⟩
    split at h <;> rename_i ha
    · exact .inl ⟨ha, h⟩
    · simp only [Host.Outcome.next.injEq] at h
      exact .inr (.inl ⟨ha, h.symm⟩)
    · simp only [Host.Outcome.next.injEq] at h
      exact .inr (.inr ⟨ha, h.symm⟩)
  · rename_i hk
    simp only [Host.Outcome.next.injEq] at h
    exact .inl ⟨by simpa using hk, h.symm⟩

/-- Everything the cycle of BRK and INT can do (R160, R161, R236). -/
theorem hostEscape_next {kind : HostKind} (h : hostEscape P kind w a s = .next t) :
    (∃ f, t = s.raise f) ∨
    ∃ ra, resolve P s.fetched s.fetched.pc 0 w a = .ok ra ∧ s.hookInstalled kind = true ∧
      ((s.nextAnswer = .continue ∧ t = finish P ra.len false (s.fetched.emit ⟨kind, ra.val, s.pc⟩)) ∨
       (s.nextAnswer = .stop ∧
         t = (s.fetched.emit ⟨kind, ra.val, s.pc⟩).setStopped (some ⟨kind, ra.val, s.pc⟩)) ∨
       (s.nextAnswer = .reenter ∧ t = (s.emit ⟨kind, ra.val, s.pc⟩).raise .reentrantCycle)) := by
  unfold hostEscape at h
  split at h
  · simp only [Host.Outcome.next.injEq] at h
    exact .inl ⟨_, h.symm⟩
  rename_i ra hra
  obtain ⟨-, rfl⟩ | ⟨hk, ⟨ha, h⟩ | h⟩ := answerEscape_next h
  · exact .inl ⟨_, rfl⟩
  · refine .inr ⟨ra, hra, hk, .inl ⟨ha, ?_⟩⟩
    simpa [settle] using h.symm
  · exact .inr ⟨ra, hra, hk, .inr h⟩

end Sys2Proof.Machine
end

