-- ==== Sys2Proof/Laws/Decode.lean ====
section
/-! SUPPORT. The fields of the opcode byte and of the descriptor byte, and one operand's encoding and decoding
(30_encoding R71 to R80). -/

namespace Sys2Proof

@[simp] theorem opcodeField_opcodeByte (op : BitVec 6) (m : BitVec 2) : opcodeField (opcodeByte op m) = op := by
  revert op m; decide

@[simp] theorem modeField_opcodeByte (op : BitVec 6) (m : BitVec 2) : modeField (opcodeByte op m) = m := by
  revert op m; decide

theorem opcodeByte_fields (b : Byte) : opcodeByte (opcodeField b) (modeField b) = b := by
  revert b; decide

@[simp] theorem widthOf_mode (w : Width) : widthOf w.mode = w := by cases w <;> rfl

theorem mode_widthOf {m : BitVec 2} (h : m ≠ 3) : (widthOf m).mode = m := by
  revert m; decide

theorem Width.mode_ne_three (w : Width) : w.mode ≠ 3 := by cases w <;> decide

section descriptor
variable (P : Params) (r p f : Bool) (c : BitVec 5)

theorem descriptor_fields (k : Bool) :
    (BitVec.ofBool k ++ BitVec.ofBool p ++ BitVec.ofBool f ++ c : Byte).getLsbD 7 = k ∧
    (BitVec.ofBool k ++ BitVec.ofBool p ++ BitVec.ofBool f ++ c : Byte).getLsbD 6 = p ∧
    (BitVec.ofBool k ++ BitVec.ofBool p ++ BitVec.ofBool f ++ c : Byte).getLsbD 5 = f ∧
    (BitVec.ofBool k ++ BitVec.ofBool p ++ BitVec.ofBool f ++ c : Byte).extractLsb' 0 5 = c := by
  revert k p f c; decide

@[simp] theorem isRegister_descriptorOf : isRegister P (descriptorOf P r p f c) = r := by
  unfold isRegister descriptorOf
  rw [(descriptor_fields p f c _).1]
  cases r <;> cases P.regFlagIsOne <;> rfl

@[simp] theorem isPointer_descriptorOf : isPointer (descriptorOf P r p f c) = p := (descriptor_fields p f c _).2.1
@[simp] theorem isInlineOrSpecial_descriptorOf : isInlineOrSpecial (descriptorOf P r p f c) = f :=
  (descriptor_fields p f c _).2.2.1
@[simp] theorem codeField_descriptorOf : codeField (descriptorOf P r p f c) = c := (descriptor_fields p f c _).2.2.2

end descriptor

/-- A descriptor byte is the one its fields make. -/
theorem descriptorOf_fields (P : Params) (d : Byte) :
    descriptorOf P (isRegister P d) (isPointer d) (isInlineOrSpecial d) (codeField d) = d := by
  have h : ∀ d : Byte, (BitVec.ofBool (d.getLsbD 7) ++ BitVec.ofBool (d.getLsbD 6) ++ BitVec.ofBool (d.getLsbD 5) ++
      d.extractLsb' 0 5 : Byte) = d := by decide
  have hk : ((d.getLsbD 7 == P.regFlagIsOne) == P.regFlagIsOne) = d.getLsbD 7 := by
    cases d.getLsbD 7 <;> cases P.regFlagIsOne <;> rfl
  unfold descriptorOf isRegister isPointer isInlineOrSpecial codeField
  rw [hk]
  exact h d

theorem encodeOperand_length (P : Params) (w : Width) (o : Operand) :
    (encodeOperand P w o).length = operandLen w o := by
  cases o <;> simp [encodeOperand, operandLen, Nat.add_comm]

theorem two_pow_bits (w : Width) : 2 ^ w.bits = 256 ^ w.bytes := by cases w <;> rfl

/-- Decoding an encoded operand gives it back, with the bytes after it. -/
theorem decodeOperand_encodeOperand (P : Params) (w : Width) (o : Operand) (rest : List Byte) (h : o.wf w = true) :
    decodeOperand P w (encodeOperand P w o ++ rest) = .ok (o, rest) := by
  have hlit : ∀ (n : Nat) (bs : List Byte), bs.length = n → (bs ++ rest).take n = bs ∧ (bs ++ rest).drop n = rest := by
    rintro n bs rfl; simp
  cases o with
  | literal c v =>
    have hv : v.toNat < 256 ^ w.bytes := by rw [← two_pow_bits]; simpa [Operand.wf] using h
    obtain ⟨h1, h2⟩ := hlit w.bytes (beBytes w.bytes v.toNat) (by simp)
    simp [encodeOperand, decodeOperand, descriptor, extraBytes, operandOf, h1, h2, beValue_beBytes, Nat.mod_eq_of_lt hv]
  | literalPtr c a =>
    obtain ⟨h1, h2⟩ := hlit 2 (beBytes 2 a.toNat) (by simp)
    have ha : BitVec.ofNat 16 (a.toNat % 65536) = a := by
      rw [Nat.mod_eq_of_lt a.isLt]; simp
    have hlen : ¬ 2 + rest.length ≤ 1 := by omega
    simp [encodeOperand, decodeOperand, descriptor, extraBytes, operandOf, h1, h2, beValue_beBytes, ha, hlen]
  | inline c => simp [encodeOperand, decodeOperand, descriptor, extraBytes, operandOf]
  | inlinePtr c => simp [encodeOperand, decodeOperand, descriptor, extraBytes, operandOf]
  | reg c => simp [encodeOperand, decodeOperand, descriptor, extraBytes, operandOf]
  | regPtr c => simp [encodeOperand, decodeOperand, descriptor, extraBytes, operandOf]
  | special c => simp [encodeOperand, decodeOperand, descriptor, extraBytes, operandOf]
  | specialPtr c => simp [encodeOperand, decodeOperand, descriptor, extraBytes, operandOf]

end Sys2Proof
end

