-- ==== Sys2Proof/Laws/PerInstr.lean ====
section
/-! SUPPORT. One lemma per constructor of Instr: the opcode map assigns the instruction's own operation to its own number,
in the band of its operand count, and the decoder makes the instruction of it (30_encoding R81, R85). -/

namespace Sys2Proof.Laws.OpcodeRow

/-- The instruction is the one its number, mode and operands make; its number is the one the map gives its operation, and
its operands are as many as the number's band selects. -/
def Statement (i : Instr) : Prop :=
  i.opcodeIn params = i.opcode ∧ params.operation i.opcode = i.operation ∧
    ∃ operands : Operands, makeInstr i.operation i.opcode i.mode operands = some i ∧
      operands.count = arity params i.opcode ∧ i.operandBytes params = operands.bytes params (widthOf i.mode)

theorem nop (m : BitVec 2) : Statement (.nop m) := ⟨rfl, rfl, .zero, rfl, rfl, rfl⟩
theorem ret (m : BitVec 2) : Statement (.ret m) := ⟨rfl, rfl, .zero, rfl, rfl, rfl⟩
theorem jmp (w : Width) (a : Operand) : Statement (.jmp w a) :=
  ⟨rfl, rfl, .one a, by cases w <;> rfl, rfl, by cases w <;> rfl⟩
theorem call (w : Width) (a : Operand) : Statement (.call w a) :=
  ⟨rfl, rfl, .one a, by cases w <;> rfl, rfl, by cases w <;> rfl⟩
theorem push (w : Width) (a : Operand) : Statement (.push w a) :=
  ⟨rfl, rfl, .one a, by cases w <;> rfl, rfl, by cases w <;> rfl⟩
theorem brk (w : Width) (a : Operand) : Statement (.brk w a) :=
  ⟨rfl, rfl, .one a, by cases w <;> rfl, rfl, by cases w <;> rfl⟩
theorem int (w : Width) (a : Operand) : Statement (.int w a) :=
  ⟨rfl, rfl, .one a, by cases w <;> rfl, rfl, by cases w <;> rfl⟩
theorem jz (w : Width) (a : Operand) : Statement (.jz w a) :=
  ⟨rfl, rfl, .one a, by cases w <;> rfl, rfl, by cases w <;> rfl⟩
theorem snz (w : Width) (a : Operand) : Statement (.snz w a) :=
  ⟨rfl, rfl, .one a, by cases w <;> rfl, rfl, by cases w <;> rfl⟩
theorem jnz (w : Width) (a : Operand) : Statement (.jnz w a) :=
  ⟨rfl, rfl, .one a, by cases w <;> rfl, rfl, by cases w <;> rfl⟩
theorem sz (w : Width) (a : Operand) : Statement (.sz w a) :=
  ⟨rfl, rfl, .one a, by cases w <;> rfl, rfl, by cases w <;> rfl⟩
theorem inc (w : Width) (a : Operand) : Statement (.inc w a) :=
  ⟨rfl, rfl, .one a, by cases w <;> rfl, rfl, by cases w <;> rfl⟩
theorem dec (w : Width) (a : Operand) : Statement (.dec w a) :=
  ⟨rfl, rfl, .one a, by cases w <;> rfl, rfl, by cases w <;> rfl⟩
theorem not (w : Width) (a : Operand) : Statement (.not w a) :=
  ⟨rfl, rfl, .one a, by cases w <;> rfl, rfl, by cases w <;> rfl⟩
theorem neg (w : Width) (a : Operand) : Statement (.neg w a) :=
  ⟨rfl, rfl, .one a, by cases w <;> rfl, rfl, by cases w <;> rfl⟩
theorem bswap (w : Width) (a : Operand) : Statement (.bswap w a) :=
  ⟨rfl, rfl, .one a, by cases w <;> rfl, rfl, by cases w <;> rfl⟩
theorem pop (w : Width) (a : Operand) : Statement (.pop w a) :=
  ⟨rfl, rfl, .one a, by cases w <;> rfl, rfl, by cases w <;> rfl⟩
theorem add (w : Width) (a b : Operand) : Statement (.add w a b) :=
  ⟨rfl, rfl, .two a b, by cases w <;> rfl, rfl, by cases w <;> rfl⟩
theorem sub (w : Width) (a b : Operand) : Statement (.sub w a b) :=
  ⟨rfl, rfl, .two a b, by cases w <;> rfl, rfl, by cases w <;> rfl⟩
theorem mul (w : Width) (a b : Operand) : Statement (.mul w a b) :=
  ⟨rfl, rfl, .two a b, by cases w <;> rfl, rfl, by cases w <;> rfl⟩
theorem div (w : Width) (a b : Operand) : Statement (.div w a b) :=
  ⟨rfl, rfl, .two a b, by cases w <;> rfl, rfl, by cases w <;> rfl⟩
theorem and (w : Width) (a b : Operand) : Statement (.and w a b) :=
  ⟨rfl, rfl, .two a b, by cases w <;> rfl, rfl, by cases w <;> rfl⟩
theorem nand (w : Width) (a b : Operand) : Statement (.nand w a b) :=
  ⟨rfl, rfl, .two a b, by cases w <;> rfl, rfl, by cases w <;> rfl⟩
theorem or (w : Width) (a b : Operand) : Statement (.or w a b) :=
  ⟨rfl, rfl, .two a b, by cases w <;> rfl, rfl, by cases w <;> rfl⟩
theorem nor (w : Width) (a b : Operand) : Statement (.nor w a b) :=
  ⟨rfl, rfl, .two a b, by cases w <;> rfl, rfl, by cases w <;> rfl⟩
theorem xor (w : Width) (a b : Operand) : Statement (.xor w a b) :=
  ⟨rfl, rfl, .two a b, by cases w <;> rfl, rfl, by cases w <;> rfl⟩
theorem bset (w : Width) (a b : Operand) : Statement (.bset w a b) :=
  ⟨rfl, rfl, .two a b, by cases w <;> rfl, rfl, by cases w <;> rfl⟩
theorem bclr (w : Width) (a b : Operand) : Statement (.bclr w a b) :=
  ⟨rfl, rfl, .two a b, by cases w <;> rfl, rfl, by cases w <;> rfl⟩
theorem shl (w : Width) (a b : Operand) : Statement (.shl w a b) :=
  ⟨rfl, rfl, .two a b, by cases w <;> rfl, rfl, by cases w <;> rfl⟩
theorem shr (w : Width) (a b : Operand) : Statement (.shr w a b) :=
  ⟨rfl, rfl, .two a b, by cases w <;> rfl, rfl, by cases w <;> rfl⟩
theorem rol (w : Width) (a b : Operand) : Statement (.rol w a b) :=
  ⟨rfl, rfl, .two a b, by cases w <;> rfl, rfl, by cases w <;> rfl⟩
theorem ror (w : Width) (a b : Operand) : Statement (.ror w a b) :=
  ⟨rfl, rfl, .two a b, by cases w <;> rfl, rfl, by cases w <;> rfl⟩
theorem xchg (w : Width) (a b : Operand) : Statement (.xchg w a b) :=
  ⟨rfl, rfl, .two a b, by cases w <;> rfl, rfl, by cases w <;> rfl⟩
theorem mov (w : Width) (a b : Operand) : Statement (.mov w a b) :=
  ⟨rfl, rfl, .two a b, by cases w <;> rfl, rfl, by cases w <;> rfl⟩
theorem je (w : Width) (a b : Operand) : Statement (.je w a b) :=
  ⟨rfl, rfl, .two a b, by cases w <;> rfl, rfl, by cases w <;> rfl⟩
theorem sne (w : Width) (a b : Operand) : Statement (.sne w a b) :=
  ⟨rfl, rfl, .two a b, by cases w <;> rfl, rfl, by cases w <;> rfl⟩
theorem jne (w : Width) (a b : Operand) : Statement (.jne w a b) :=
  ⟨rfl, rfl, .two a b, by cases w <;> rfl, rfl, by cases w <;> rfl⟩
theorem se (w : Width) (a b : Operand) : Statement (.se w a b) :=
  ⟨rfl, rfl, .two a b, by cases w <;> rfl, rfl, by cases w <;> rfl⟩
theorem jl (w : Width) (a b : Operand) : Statement (.jl w a b) :=
  ⟨rfl, rfl, .two a b, by cases w <;> rfl, rfl, by cases w <;> rfl⟩
theorem sge (w : Width) (a b : Operand) : Statement (.sge w a b) :=
  ⟨rfl, rfl, .two a b, by cases w <;> rfl, rfl, by cases w <;> rfl⟩
theorem jge (w : Width) (a b : Operand) : Statement (.jge w a b) :=
  ⟨rfl, rfl, .two a b, by cases w <;> rfl, rfl, by cases w <;> rfl⟩
theorem sl (w : Width) (a b : Operand) : Statement (.sl w a b) :=
  ⟨rfl, rfl, .two a b, by cases w <;> rfl, rfl, by cases w <;> rfl⟩
theorem jg (w : Width) (a b : Operand) : Statement (.jg w a b) :=
  ⟨rfl, rfl, .two a b, by cases w <;> rfl, rfl, by cases w <;> rfl⟩
theorem sle (w : Width) (a b : Operand) : Statement (.sle w a b) :=
  ⟨rfl, rfl, .two a b, by cases w <;> rfl, rfl, by cases w <;> rfl⟩
theorem jle (w : Width) (a b : Operand) : Statement (.jle w a b) :=
  ⟨rfl, rfl, .two a b, by cases w <;> rfl, rfl, by cases w <;> rfl⟩
theorem sg (w : Width) (a b : Operand) : Statement (.sg w a b) :=
  ⟨rfl, rfl, .two a b, by cases w <;> rfl, rfl, by cases w <;> rfl⟩
theorem jbs (w : Width) (a b : Operand) : Statement (.jbs w a b) :=
  ⟨rfl, rfl, .two a b, by cases w <;> rfl, rfl, by cases w <;> rfl⟩
theorem sbc (w : Width) (a b : Operand) : Statement (.sbc w a b) :=
  ⟨rfl, rfl, .two a b, by cases w <;> rfl, rfl, by cases w <;> rfl⟩
theorem jbc (w : Width) (a b : Operand) : Statement (.jbc w a b) :=
  ⟨rfl, rfl, .two a b, by cases w <;> rfl, rfl, by cases w <;> rfl⟩
theorem sbs (w : Width) (a b : Operand) : Statement (.sbs w a b) :=
  ⟨rfl, rfl, .two a b, by cases w <;> rfl, rfl, by cases w <;> rfl⟩
theorem unassigned50 (w : Width) (a b : Operand) : Statement (.unassigned50 w a b) :=
  ⟨rfl, rfl, .two a b, by cases w <;> rfl, rfl, by cases w <;> rfl⟩
theorem unassigned51 (w : Width) (a b : Operand) : Statement (.unassigned51 w a b) :=
  ⟨rfl, rfl, .two a b, by cases w <;> rfl, rfl, by cases w <;> rfl⟩
theorem unassigned52 (w : Width) (a b : Operand) : Statement (.unassigned52 w a b) :=
  ⟨rfl, rfl, .two a b, by cases w <;> rfl, rfl, by cases w <;> rfl⟩
theorem unassigned53 (w : Width) (a b : Operand) : Statement (.unassigned53 w a b) :=
  ⟨rfl, rfl, .two a b, by cases w <;> rfl, rfl, by cases w <;> rfl⟩
theorem unassigned54 (w : Width) (a b : Operand) : Statement (.unassigned54 w a b) :=
  ⟨rfl, rfl, .two a b, by cases w <;> rfl, rfl, by cases w <;> rfl⟩
theorem unassigned55 (w : Width) (a b : Operand) : Statement (.unassigned55 w a b) :=
  ⟨rfl, rfl, .two a b, by cases w <;> rfl, rfl, by cases w <;> rfl⟩
theorem unassigned56 (w : Width) (a b : Operand) : Statement (.unassigned56 w a b) :=
  ⟨rfl, rfl, .two a b, by cases w <;> rfl, rfl, by cases w <;> rfl⟩
theorem unassigned57 (w : Width) (a b : Operand) : Statement (.unassigned57 w a b) :=
  ⟨rfl, rfl, .two a b, by cases w <;> rfl, rfl, by cases w <;> rfl⟩
theorem unassigned58 (w : Width) (a b : Operand) : Statement (.unassigned58 w a b) :=
  ⟨rfl, rfl, .two a b, by cases w <;> rfl, rfl, by cases w <;> rfl⟩
theorem unassigned59 (w : Width) (a b : Operand) : Statement (.unassigned59 w a b) :=
  ⟨rfl, rfl, .two a b, by cases w <;> rfl, rfl, by cases w <;> rfl⟩
theorem unassigned60 (w : Width) (a b : Operand) : Statement (.unassigned60 w a b) :=
  ⟨rfl, rfl, .two a b, by cases w <;> rfl, rfl, by cases w <;> rfl⟩
theorem unassigned61 (w : Width) (a b : Operand) : Statement (.unassigned61 w a b) :=
  ⟨rfl, rfl, .two a b, by cases w <;> rfl, rfl, by cases w <;> rfl⟩
theorem unassigned62 (w : Width) (a b : Operand) : Statement (.unassigned62 w a b) :=
  ⟨rfl, rfl, .two a b, by cases w <;> rfl, rfl, by cases w <;> rfl⟩
theorem unassigned63 (w : Width) (a b : Operand) : Statement (.unassigned63 w a b) :=
  ⟨rfl, rfl, .two a b, by cases w <;> rfl, rfl, by cases w <;> rfl⟩

end Sys2Proof.Laws.OpcodeRow
end

