-- ==== Sys2Proof/Laws/Parametric.lean ====
section
/-! SUPPORT. The machine for any parameters, at the decided ones, is the machine of Step.lean: fetching a window of bytes
and decoding it reads the operands that 41_cycle R141 reads one by one, and a first commit through the decoded operand is
the committer's own decoding (40_operands R121). -/

namespace Sys2Proof.Machine

/-! ## Decoding from memory -/

theorem operandLen_operandOf (P : Params) (w : Width) (d : Byte) (extra : List Byte) :
    operandLen w (operandOf P d extra) = extraBytes P w d + 1 := by
  unfold operandOf extraBytes
  cases isRegister P d <;> cases isPointer d <;> cases isInlineOrSpecial d <;> simp [operandLen, Nat.add_comm]

theorem extraBytes_le (P : Params) (w : Width) (d : Byte) : extraBytes P w d ≤ 4 := by
  unfold extraBytes
  cases w <;> split <;> (try split) <;> decide

theorem operandLen_le (w : Width) (o : Operand) : operandLen w o ≤ 5 := by
  cases w <;> cases o <;> simp [operandLen, Width.bytes]

theorem readBytes_take_drop (m : Memory) (a : Addr) {k n : Nat} (h : k ≤ n) :
    (m.readBytes a n).take k = m.readBytes a k ∧
      (m.readBytes a n).drop k = m.readBytes (a + BitVec.ofNat 16 k) (n - k) := by
  obtain ⟨j, rfl⟩ := Nat.exists_eq_add_of_le h
  rw [Memory.readBytes_add]
  constructor
  · exact List.take_left' (m.readBytes_length a k)
  · rw [List.drop_left' (m.readBytes_length a k), Nat.add_sub_cancel_left]

/-- Decoding an operand from five bytes of memory or more gives the operand the committer would decode there, and the
memory after it. -/
theorem decodeOperand_readBytes (P : Params) (w : Width) (m : Memory) (a : Addr) {n : Nat} (h : 5 ≤ n) :
    decodeOperand P w (m.readBytes a n) = .ok (operandAt P m a w,
      m.readBytes (a + BitVec.ofNat 16 (operandLen w (operandAt P m a w))) (n - operandLen w (operandAt P m a w))) := by
  obtain ⟨k, rfl⟩ := Nat.exists_eq_add_of_le' (show 1 ≤ n by omega)
  have hx := extraBytes_le P w (m.read a)
  obtain ⟨h1, h2⟩ := readBytes_take_drop m (a + 1) (show extraBytes P w (m.read a) ≤ k by omega)
  have hl : ¬ (m.readBytes (a + 1) k).length < extraBytes P w (m.read a) := by
    rw [Memory.readBytes_length]; omega
  have e : a + 1 + BitVec.ofNat 16 (extraBytes P w (m.read a)) = a + BitVec.ofNat 16 (extraBytes P w (m.read a) + 1) := by
    rw [BitVec.ofNat_add, BitVec.add_assoc, BitVec.add_comm (1 : Addr)]; rfl
  simp only [Memory.readBytes, decodeOperand, if_neg hl, operandAt, operandLen_operandOf, h1, h2, e,
    Nat.add_sub_add_right]

/-- The operands at `a`, as many as `n` selects, each decoded where the one before it ends. -/
def operandsAt (P : Params) (m : Memory) (a : Addr) (w : Width) : Nat → Operands
  | 0 => .zero
  | 1 => .one (operandAt P m a w)
  | _ + 2 => .two (operandAt P m a w) (operandAt P m (a + BitVec.ofNat 16 (operandLen w (operandAt P m a w))) w)

theorem decodeOperands_readBytes (P : Params) (w : Width) (m : Memory) (a : Addr) (n : Nat) {k : Nat} (h : 10 ≤ k) :
    ∃ rest, decodeOperands P w n (m.readBytes a k) = .ok (operandsAt P m a w n, rest) := by
  have hA := operandLen_le w (operandAt P m a w)
  match n with
  | 0 => exact ⟨_, rfl⟩
  | 1 => exact ⟨_, by rw [decodeOperands, decodeOperand_readBytes P w m a (by omega)]; rfl⟩
  | _ + 2 =>
    simp only [decodeOperands, decodeOperand_readBytes P w m a (show 5 ≤ k by omega),
      decodeOperand_readBytes P w m _ (show 5 ≤ k - operandLen w (operandAt P m a w) by omega)]
    exact ⟨_, rfl⟩

/-! ## The cycle with decoded operands -/

/-- The cycle of an operation and its decoded operands, in the shapes of Cycle.lean. -/
def cycleDecoded (P : Params) (o : Option Operation) (op : BitVec 6) (w : Width) (s : State) : Operands → Result
  | .zero => cycleZero P s fun t => dispatch P o w 0 t 0 0
  | .one a =>
    match escapeKind o with
    | some kind => hostEscape P kind w a s
    | none => cycleOne P op w a s fun t ra => dispatch P o w ra.len t ra.val 0
  | .two a b =>
    if o = some (.two .xchg) then cycleExchange P op w a b s
    else cycleTwo P op w a b s fun t ra rb => dispatch P o w (ra.len + rb.len) t ra.val rb.val

/-- The decided map gives an operation one number only, and assigns none from 50 on. -/
theorem operation_number (op : BitVec 6) :
    (params.operation op).map (fun o => BitVec.ofNat 6 (params.numberOf o)) = some op ∨
      params.operation op = none ∧ 50 ≤ op.toNat := by
  revert op; decide

/-- Every instruction's meaning is the cycle of its operation. -/
theorem exec_makeInstr {op : BitVec 6} {mode : BitVec 2} {operands : Operands} {i : Instr} (s : State)
    (h : makeInstr (params.operation op) op mode operands = some i) :
    exec i s = cycleDecoded params (params.operation op) op (widthOf mode) s operands := by
  have hn := operation_number op
  generalize params.operation op = o at h hn
  cases o with
  | some o =>
    obtain hn | ⟨hn, -⟩ := hn
    · simp only [Option.map_some, Option.some.injEq] at hn
      subst hn
      cases operands with
      | zero =>
        cases o with
        | zero z => cases h; cases z <;> rfl
        | one z => cases h
        | two z => cases h
      | one a =>
        cases o with
        | zero z => cases h
        | one z => cases h; cases z <;> rfl
        | two z => cases h
      | two a b =>
        cases o with
        | zero z => cases h
        | one z => cases h
        | two z => cases h; cases z <;> rfl
    · cases hn
  | none =>
    cases operands with
    | zero => cases h
    | one a => cases h
    | two a b =>
      obtain hn | ⟨-, hn⟩ := hn
      · cases hn
      have hlt := op.isLt
      obtain ⟨k, hk⟩ : ∃ k, op.toNat = k := ⟨_, rfl⟩
      have ho : op = BitVec.ofNat 6 k := by rw [← hk]; simp
      rw [hk] at hn hlt
      clear hk
      subst ho
      interval_cases k <;> (cases h; rfl)

/-! ## The committer's own decoding -/

/-- Only CALL and PUSH store in their dispatch. -/
theorem dispatch_mem {P : Params} {o : Option Operation} {w : Width} {n : Nat} {t : State} {x y : Word} {d : Dispatched}
    (h : dispatch P o w n t x y = .ok d) (hc : o ≠ some (.one .call)) (hp : o ≠ some (.one .push)) :
    d.st.mem = t.mem := by
  have alu : ∀ {r : Except ModelFault Word}, resultOnly t r = .ok d → d.st.mem = t.mem := by
    intro r h; unfold resultOnly at h; split at h <;> cases h; rfl
  have test : ∀ {r : Except ModelFault Bool}, skipOnly t r = .ok d → d.st.mem = t.mem := by
    intro r h; unfold skipOnly at h; split at h <;> cases h; rfl
  match o with
  | none => cases h; rfl
  | some (.zero .nop) => cases h; rfl
  | some (.zero .ret) =>
    simp only [dispatch, dispatchZero, returnFrom] at h
    split at h <;> cases h; rfl
  | some (.one z) =>
    cases z with
    | call => exact absurd rfl hc
    | push => exact absurd rfl hp
    | pop =>
      simp only [dispatch, dispatchOne, popValue] at h
      split at h <;> cases h; rfl
    | jmp => cases h; rfl
    | brk => cases h; rfl
    | int => cases h; rfl
    | _ => simp only [dispatch, dispatchOne] at h; first | exact alu h | exact test h
  | some (.two z) =>
    cases z with
    | xchg => cases h; rfl
    | _ => simp only [dispatch, dispatchTwo] at h; first | exact alu h | exact test h

/-- While memory is as it was at fetch, the commit stage of an operation other than XCHG is the writeback through the
operand decoded at fetch. -/
theorem commitStage_writeback {P : Params} {op : BitVec 6} {ip0 : Addr} {w : Width} {ra rb : Resolved} {sup : Bool}
    {d : Dispatched} {m : Memory} (hm : d.st.mem = m ∨ inResultBand P op = false)
    (hx : P.operation op ≠ some (.two .xchg)) :
    commitStage P op ip0 w ra rb sup d = writeback P op ip0 w (operandAt P m ip0 w) sup d := by
  unfold commitStage writeback
  obtain rfl | hb := hm
  · rw [if_neg hx]
    simp only [commitAt, BitVec.add_zero]
    split
    · cases commitTo P d.st ip0 0 w d.result (operandAt P d.st.mem ip0 w) <;> rfl
    · rfl
  · simp only [hb, Bool.false_and, Bool.false_eq_true, if_false]

/-- The commit stage of XCHG is the exchange through the operand decoded at fetch. -/
theorem commitStage_exchange {P : Params} {op : BitVec 6} {ip0 : Addr} {w : Width} {ra rb : Resolved} {sup : Bool}
    {s : State} (hx : P.operation op = some (.two .xchg)) :
    commitStage P op ip0 w ra rb sup ⟨s, 0, false⟩ =
      exchange P op ip0 w (operandAt P s.mem ip0 w) ra.len ra.val rb.val sup s := by
  unfold commitStage exchange
  rw [if_pos hx]
  simp only [commitAt, BitVec.add_zero, Bool.false_or]
  split
  · cases commitTo P s ip0 0 w rb.val (operandAt P s.mem ip0 w) with
    | error f => rfl
    | ok t =>
      simp only
      cases commitTo P t ip0 ra.len w ra.val (operandAt P t.mem (ip0 + BitVec.ofNat 16 ra.len) w) <;> rfl
  · rfl

/-! ## The two machines -/

/-- What the decided map and bands say of every opcode number. -/
theorem reference_bands (op : BitVec 6) :
    arity params op ≤ 2 ∧
    (arity params op = 0 → inResultBand params op = false ∧ escapeKind (params.operation op) = none) ∧
    (arity params op = 1 → params.operation op ≠ some (.two .xchg)) ∧
    (arity params op = 2 → escapeKind (params.operation op) = none) ∧
    (inResultBand params op = true → params.operation op ≠ some (.one .call) ∧ params.operation op ≠ some (.one .push) ∧
      escapeKind (params.operation op) = none) := by
  revert op; decide

theorem escape_dispatch {P : Params} {o : Option Operation} {kind : HostKind} (h : escapeKind o = some kind) (w : Width)
    (n : Nat) (t : State) (x y : Word) : dispatch P o w n t x y = .ok ⟨t, 0, false⟩ := by
  unfold escapeKind at h
  split at h
  · subst o; rfl
  · split at h
    · subst o; rfl
    · cases h

theorem cycleOfByte_decoded {op : BitVec 6} {mode : BitVec 2} (s : State) (h : ¬ (1 ≤ arity params op ∧ mode = 3)) :
    cycleOfByte params op mode s = cycleDecoded params (params.operation op) op (widthOf mode) s
      (operandsAt params s.mem s.fetched.pc (widthOf mode) (arity params op)) := by
  obtain ⟨h2, hz, ho, ht, hb⟩ := reference_bands op
  have hmem : ∀ {n : Nat} {x y : Word} {d : Dispatched},
      dispatch params (params.operation op) (widthOf mode) n s.fetched x y = .ok d →
      d.st.mem = s.mem ∨ inResultBand params op = false := by
    intro n x y d hd
    cases hr : inResultBand params op with
    | false => exact .inr rfl
    | true => exact .inl (dispatch_mem (t := s.fetched) hd (hb hr).1 (hb hr).2.1)
  have hf : s.fetched.mem = s.mem := rfl
  rw [cycleOfByte, if_neg h]
  generalize harity : arity params op = n at h2 hz ho ht
  match n with
  | 0 =>
    obtain ⟨hr, hk⟩ := hz rfl
    simp only [resolveSelected, hk, operandsAt, cycleDecoded, cycleZero, afterResolve, commitStage, hr, Bool.false_and,
      Bool.false_eq_true, if_false]
    rfl
  | 1 =>
    have hx := ho rfl
    simp only [resolveSelected, resolveAt, operandsAt, cycleDecoded, BitVec.add_zero, hf]
    cases hra : resolve params s.fetched s.fetched.pc 0 (widthOf mode)
        (operandAt params s.mem s.fetched.pc (widthOf mode)) with
    | error f =>
      cases hk : escapeKind (params.operation op) <;> simp only [cycleOne, hostEscape, hra, settle]
    | ok ra =>
      cases hk : escapeKind (params.operation op) with
      | none =>
        simp only [cycleOne, hra, afterResolve]
        cases hd : dispatch params (params.operation op) (widthOf mode) (ra.len + unselected.len) s.fetched ra.val
            unselected.val with
        | error f =>
          have hd' : dispatch params (params.operation op) (widthOf mode) ra.len s.fetched ra.val 0 = .error f := hd
          simp only [hd']
        | ok d =>
          have hd' : dispatch params (params.operation op) (widthOf mode) ra.len s.fetched ra.val 0 = .ok d := hd
          simp only [hd', commitStage_writeback (hmem hd) hx]
          rfl
      | some kind =>
        have hr : inResultBand params op = false := by
          cases hr : inResultBand params op with
          | false => rfl
          | true => rw [(hb hr).2.2] at hk; cases hk
        have hgo : afterResolve params op s.fetched.pc (widthOf mode) ra unselected s.skipActive =
            fun t => .ok (finish params ra.len false t) := by
          funext t
          simp only [afterResolve, escape_dispatch hk, commitStage, hr, Bool.false_and, Bool.false_eq_true, if_false]
          rfl
        simp only [hostEscape, hra, hgo]
  | 2 =>
    have hk := ht rfl
    simp only [resolveSelected, resolveAt, operandsAt, cycleDecoded, BitVec.add_zero, hf, hk]
    cases hra : resolve params s.fetched s.fetched.pc 0 (widthOf mode)
        (operandAt params s.mem s.fetched.pc (widthOf mode)) with
    | error f => simp only [cycleTwo, cycleExchange, resolveTwo, hra, settle, ite_self]
    | ok ra =>
      simp only [resolve_len hra]
      generalize hb : operandAt params s.mem (s.fetched.pc + BitVec.ofNat 16 (operandLen (widthOf mode)
        (operandAt params s.mem s.fetched.pc (widthOf mode)))) (widthOf mode) = b
      cases hrb : resolve params s.fetched s.fetched.pc (operandLen (widthOf mode)
          (operandAt params s.mem s.fetched.pc (widthOf mode))) (widthOf mode) b with
      | error f => simp only [cycleTwo, cycleExchange, resolveTwo, hra, resolve_len hra, hrb, settle, ite_self]
      | ok rb =>
        have h2 : resolveTwo params s.fetched (widthOf mode) (operandAt params s.mem s.fetched.pc (widthOf mode)) b =
            .ok (ra, rb) := resolveTwo_of hra (by rw [resolve_len hra]; exact hrb)
        by_cases hx : params.operation op = some (.two .xchg)
        · rw [if_pos hx]
          simp only [cycleExchange, h2, afterResolve, hx, dispatch, dispatchTwo, commitStage_exchange hx, hf] <;> rfl
        · rw [if_neg hx]
          simp only [cycleTwo, h2, afterResolve]
          cases hd : dispatch params (params.operation op) (widthOf mode) (ra.len + rb.len) s.fetched ra.val rb.val with
          | error f => rfl
          | ok d =>
            simp only [commitStage_writeback (hmem hd) hx] <;> rfl
  | k + 3 => omega

/-- A fetch of the whole window and its decoding, in one. -/
theorem fetchInstr_eq (s : State) :
    fetchInstr s =
      if 1 ≤ arity params (opcodeField (s.mem.read s.pc)) ∧ modeField (s.mem.read s.pc) = 3 then
        .error (.reservedBitsMode (opcodeField (s.mem.read s.pc)))
      else
        match makeInstr (params.operation (opcodeField (s.mem.read s.pc))) (opcodeField (s.mem.read s.pc))
            (modeField (s.mem.read s.pc)) (operandsAt params s.mem s.fetched.pc (widthOf (modeField (s.mem.read s.pc)))
              (arity params (opcodeField (s.mem.read s.pc)))) with
        | some i => .ok i
        | none => .error (.noInstr (opcodeField (s.mem.read s.pc))) := by
  obtain ⟨rest, hr⟩ := decodeOperands_readBytes params (widthOf (modeField (s.mem.read s.pc))) s.mem (s.pc + 1)
    (arity params (opcodeField (s.mem.read s.pc))) (k := 10) (Nat.le_refl _)
  have hw : fetchWindow s = s.mem.read s.pc :: s.mem.readBytes (s.pc + 1) 10 := rfl
  have hp : s.fetched.pc = s.pc + 1 := rfl
  by_cases hc : 1 ≤ arity params (opcodeField (s.mem.read s.pc)) ∧ modeField (s.mem.read s.pc) = 3
  · simp only [fetchInstr, hw, decode, if_pos hc]
  · simp only [fetchInstr, hw, decode, if_neg hc, hr, hp]
    cases makeInstr (params.operation (opcodeField (s.mem.read s.pc))) (opcodeField (s.mem.read s.pc))
      (modeField (s.mem.read s.pc)) (operandsAt params s.mem (s.pc + 1) (widthOf (modeField (s.mem.read s.pc)))
        (arity params (opcodeField (s.mem.read s.pc)))) <;> rfl

/-- Every opcode number has an operation of its band's operand count, or one of the unassigned rows. -/
theorem reference_rows (op : BitVec 6) :
    (params.operation op).map Operation.operands = some (arity params op) ∨
      params.operation op = none ∧ arity params op = 2 ∧ (unassignedMake op).isSome = true := by
  revert op; decide

/-- The decided map makes an instruction of every number and as many operands as its band selects. -/
theorem makeInstr_total (op : BitVec 6) (mode : BitVec 2) {operands : Operands} (h : operands.count = arity params op) :
    ∃ i, makeInstr (params.operation op) op mode operands = some i := by
  obtain ho | ⟨ho, ha, hu⟩ := reference_rows op
  · rw [← h] at ho
    generalize params.operation op = o at ho
    cases operands <;> rcases o with _ | (z | z | z) <;> first | exact ⟨_, rfl⟩ | cases ho
  · obtain ⟨make, hm⟩ := Option.isSome_iff_exists.mp hu
    rw [ho]
    cases operands with
    | zero => rw [ha] at h; cases h
    | one a => rw [ha] at h; cases h
    | two a b => exact ⟨make (widthOf mode) a b, by simp only [makeInstr, hm, Option.map_some]⟩

theorem operandsAt_count (P : Params) (m : Memory) (a : Addr) (w : Width) (op : BitVec 6) :
    (operandsAt P m a w (arity P op)).count = arity P op := by
  unfold arity
  split
  · rfl
  · split <;> rfl

/-- The machine of Step.lean is the machine of R141 at the decided parameters (00_scope R8). -/
theorem step_eq_stepWith (s : State) : step s = stepWith params s := by
  unfold step stepWith
  cases s.faulted with
  | some x => rfl
  | none =>
  cases s.stopped with
  | some e => rfl
  | none =>
  simp only
  rw [fetchInstr_eq, cycleWith]
  by_cases h : 1 ≤ arity params (opcodeField (s.mem.read s.pc)) ∧ modeField (s.mem.read s.pc) = 3
  · rw [if_pos h, cycleOfByte, if_pos h]; rfl
  · rw [if_neg h, cycleOfByte_decoded s h]
    obtain ⟨i, hi⟩ := makeInstr_total (opcodeField (s.mem.read s.pc)) (modeField (s.mem.read s.pc))
      (operandsAt_count params s.mem s.fetched.pc (widthOf (modeField (s.mem.read s.pc))) _)
    rw [hi]
    exact exec_makeInstr s hi

end Sys2Proof.Machine
end

