-- ==== Sys2Proof/Tests/Slice0.lean ====
section
/-! SUPPORT. The author's own tests. Words and expected results come from the spec: the examples of each rule and the
vectors L1, L2 of 95_test_vectors. Then, for every statement with hypotheses, a concrete state and operands that meet
them. -/

namespace Sys2Proof.Tests

open Sys2Proof.Machine Sys2Proof.Claims

/-! ## Helpers -/

/-- The next state of a step. -/
def answer (r : Result) : Option State :=
  match r with
  | .next t => some t
  | .fault _ => none
  | .refused _ => none

/-- The reset state with a program at address 0 and the registers from r0 on. -/
def image (bytes regs : List Byte) : State :=
  (State.reset.load 0 bytes).setRegs (regStore State.reset.regs 0 regs)

/-- The state one step ends in. -/
def after (bytes regs : List Byte) : Option State := answer (step (image bytes regs))

/-- The first `n` register bytes after one step. -/
def regsAfter (n : Nat) (bytes regs : List Byte) : Option (List Byte) :=
  (after bytes regs).map fun t => regBytes t.regs 0 n

/-- PC and the skip latch after one step. -/
def skipAfter (bytes regs : List Byte) : Option (Addr × Bool) := (after bytes regs).map fun t => (t.pc, t.skipActive)

/-- The fault one step records. -/
def faultAfter (bytes regs : List Byte) : Option (ModelFault × Addr) := (after bytes regs).bind fun t => t.faulted

/-- PC, SP and the bytes at an address after one step from a state with the given SP. -/
def stackAfter (s : State) (a : Addr) (n : Nat) : Option (Addr × Addr × List Byte) :=
  (answer (step s)).map fun t => (t.pc, t.sp, t.mem.readBytes a n)

/-- The instruction that bytes are the whole encoding of. -/
def whole (bytes : List Byte) : Option Instr :=
  match decode params bytes with
  | .ok (i, []) => some i
  | .ok (_, _ :: _) => none
  | .error _ => none

/-! ## Well-formedness: each check refuses an ill-formed term -/

theorem test_wf_refuses_wide_literal :
    Operand.wf .w8 (.literal 0 0x100) = false ∧ Operand.wf .w16 (.literal 0 0x10000) = false := by decide
theorem test_wf_refuses_operand_a :
    (Instr.inc .w8 (.literal 0 0x100)).wf = false ∧ (Instr.add .w8 (.literal 0 0x100) (.reg 0)).wf = false := by decide
theorem test_wf_refuses_operand_b : (Instr.add .w16 (.reg 0) (.literal 0 0x10000)).wf = false := by decide

/-- What R83 fixes about the opcode map: the decided parameters meet it; bands out of order, a list of more than 64
numbers, an operation with two numbers, INC not first or MOV not last in the result band, and an operation in another
band do not. -/
theorem test_admissible : params.admissible = true ∧
    ({ params with band1 := 18 } : Params).admissible = false ∧
    ({ params with opcodeMap := referenceMap ++ List.replicate 15 none } : Params).admissible = false ∧
    ({ params with opcodeMap := referenceMap ++ [some (.two .mov)] } : Params).admissible = false ∧
    ({ params with resultLo := 12 } : Params).admissible = false ∧
    ({ params with resultHi := 32 } : Params).admissible = false ∧
    ({ params with opcodeMap := referenceMap.set 1 (some (.one .jmp)) |>.set 2 (some (.zero .ret)) } : Params).admissible
      = false := by decide

/-! ## Decoding: words written from the spec's encoding (30_encoding R71, R73, R76, R78, R85) -/

/-- NOP, RET, JMP, CALL (R150 to R153). -/
theorem test_decode_control :
    [[0x00],
     [0x03],
     [0x05],
     [0x09, 0x00, 0x01, 0x00],
     [0x0D, 0x00, 0x00, 0x0D],
     [0x0E, 0x00, 0x00, 0x00, 0x10, 0x00]].map whole =
      [some (.nop 0),
       some (.nop 3),
       some (.ret 1),
       some (.jmp .w16 (.literal 0 0x100)),
       some (.call .w16 (.literal 0 0x0D)),
       some (.call .w32 (.literal 0 0x1000))] := by decide
/-- PUSH, POP, BRK, INT (R154, R155, R162, R163). -/
theorem test_decode_stack_and_host :
    [[0x11, 0x00, 0x12, 0x34],
     [0x41, 0x84],
     [0x14, 0x2A],
     [0x1A, 0x80]].map whole =
      [some (.push .w16 (.literal 0 0x1234)),
       some (.pop .w16 (.reg 4)),
       some (.brk .w8 (.inline 10)),
       some (.int .w32 (.reg 0))] := by decide
/-- R201 to R204. -/
theorem test_decode_conditionals_of_one_operand :
    [[0x1C, 0x80],
     [0x20, 0x28],
     [0x24, 0x80],
     [0x28, 0x80]].map whole =
      [some (.jz .w8 (.reg 0)),
       some (.snz .w8 (.inline 8)),
       some (.jnz .w8 (.reg 0)),
       some (.sz .w8 (.reg 0))] := by decide
/-- R171 to R175. -/
theorem test_decode_unary_alu :
    [[0x2D, 0x84],
     [0x30, 0x80],
     [0x34, 0x80],
     [0x38, 0x80],
     [0x3E, 0x80]].map whole =
      [some (.inc .w16 (.reg 4)),
       some (.dec .w8 (.reg 0)),
       some (.not .w8 (.reg 0)),
       some (.neg .w8 (.reg 0)),
       some (.bswap .w32 (.reg 0))] := by decide
/-- R176 to R190. -/
theorem test_decode_binary_alu :
    [[0x44, 0x80, 0x00, 0x03],
     [0x48, 0x80, 0x00, 0x01],
     [0x4C, 0x80, 0x00, 0x10],
     [0x50, 0x80, 0x00, 0x02],
     [0x54, 0x80, 0x00, 0x3C],
     [0x58, 0x80, 0x00, 0x3C],
     [0x5C, 0x80, 0x00, 0x0F],
     [0x60, 0x80, 0x00, 0x0C],
     [0x64, 0x80, 0x00, 0x0F],
     [0x68, 0x80, 0x00, 0x07],
     [0x6C, 0x80, 0x00, 0x00],
     [0x70, 0x80, 0x00, 0x01],
     [0x74, 0x80, 0x00, 0x07],
     [0x78, 0x80, 0x00, 0x01],
     [0x7C, 0x80, 0x00, 0x01]].map whole =
      [some (.add .w8 (.reg 0) (.literal 0 0x03)),
       some (.sub .w8 (.reg 0) (.literal 0 0x01)),
       some (.mul .w8 (.reg 0) (.literal 0 0x10)),
       some (.div .w8 (.reg 0) (.literal 0 0x02)),
       some (.and .w8 (.reg 0) (.literal 0 0x3C)),
       some (.nand .w8 (.reg 0) (.literal 0 0x3C)),
       some (.or .w8 (.reg 0) (.literal 0 0x0F)),
       some (.nor .w8 (.reg 0) (.literal 0 0x0C)),
       some (.xor .w8 (.reg 0) (.literal 0 0x0F)),
       some (.bset .w8 (.reg 0) (.literal 0 0x07)),
       some (.bclr .w8 (.reg 0) (.literal 0 0x00)),
       some (.shl .w8 (.reg 0) (.literal 0 0x01)),
       some (.shr .w8 (.reg 0) (.literal 0 0x07)),
       some (.rol .w8 (.reg 0) (.literal 0 0x01)),
       some (.ror .w8 (.reg 0) (.literal 0 0x01))] := by decide
/-- R191, R192. -/
theorem test_decode_movement :
    [[0x80, 0x80, 0x81],
     [0x84, 0x81, 0x00, 0x09],
     [0x86, 0xC8, 0x80]].map whole =
      [some (.xchg .w8 (.reg 0) (.reg 1)),
       some (.mov .w8 (.reg 1) (.literal 0 9)),
       some (.mov .w32 (.regPtr 8) (.reg 0))] := by decide
/-- R205 to R216. -/
theorem test_decode_comparisons :
    [[0x88, 0x00, 0x05, 0x00, 0x06],
     [0x8C, 0x00, 0x05, 0x00, 0x05],
     [0x90, 0x00, 0x05, 0x00, 0x05],
     [0x94, 0x00, 0x05, 0x00, 0x05],
     [0x98, 0x00, 0x02, 0x00, 0x01],
     [0x9C, 0x00, 0x01, 0x00, 0x01],
     [0xA0, 0x00, 0x01, 0x00, 0x02],
     [0xA4, 0x00, 0x01, 0x00, 0x02],
     [0xA8, 0x00, 0x01, 0x00, 0x01],
     [0xAC, 0x00, 0x02, 0x00, 0x01],
     [0xB0, 0x00, 0x02, 0x00, 0x01],
     [0xB5, 0x00, 0x80, 0x00, 0x00, 0x7F, 0xFF]].map whole =
      [some (.je .w8 (.literal 0 5) (.literal 0 6)),
       some (.sne .w8 (.literal 0 5) (.literal 0 5)),
       some (.jne .w8 (.literal 0 5) (.literal 0 5)),
       some (.se .w8 (.literal 0 5) (.literal 0 5)),
       some (.jl .w8 (.literal 0 2) (.literal 0 1)),
       some (.sge .w8 (.literal 0 1) (.literal 0 1)),
       some (.jge .w8 (.literal 0 1) (.literal 0 2)),
       some (.sl .w8 (.literal 0 1) (.literal 0 2)),
       some (.jg .w8 (.literal 0 1) (.literal 0 1)),
       some (.sle .w8 (.literal 0 2) (.literal 0 1)),
       some (.jle .w8 (.literal 0 2) (.literal 0 1)),
       some (.sg .w16 (.literal 0 0x8000) (.literal 0 0x7FFF))] := by decide
/-- R217 to R220. -/
theorem test_decode_bit_tests :
    [[0xB8, 0x00, 0x04, 0x00, 0x01],
     [0xBC, 0x00, 0x04, 0x00, 0x02],
     [0xC0, 0x00, 0x04, 0x00, 0x02],
     [0xC4, 0x00, 0x04, 0x00, 0x08]].map whole =
      [some (.jbs .w8 (.literal 0 4) (.literal 0 1)),
       some (.sbc .w8 (.literal 0 4) (.literal 0 2)),
       some (.jbc .w8 (.literal 0 4) (.literal 0 2)),
       some (.sbs .w8 (.literal 0 4) (.literal 0 8))] := by decide
/-- Opcode numbers 50 to 63 (R84, R164). -/
theorem test_decode_unassigned :
    [[0xC8, 0x2A, 0x2A],
     [0xCC, 0x2A, 0x2A],
     [0xD0, 0x2A, 0x2A],
     [0xD4, 0x2A, 0x2A],
     [0xD8, 0x2A, 0x2A],
     [0xDC, 0x2A, 0x2A],
     [0xE0, 0x2A, 0x2A],
     [0xE4, 0x2A, 0x2A],
     [0xE8, 0x2A, 0x2A],
     [0xEC, 0x2A, 0x2A],
     [0xF0, 0x2A, 0x2A],
     [0xF4, 0x2A, 0x2A],
     [0xF8, 0x2A, 0x2A],
     [0xFC, 0x2A, 0x2A]].map whole =
      [some (.unassigned50 .w8 (.inline 10) (.inline 10)),
       some (.unassigned51 .w8 (.inline 10) (.inline 10)),
       some (.unassigned52 .w8 (.inline 10) (.inline 10)),
       some (.unassigned53 .w8 (.inline 10) (.inline 10)),
       some (.unassigned54 .w8 (.inline 10) (.inline 10)),
       some (.unassigned55 .w8 (.inline 10) (.inline 10)),
       some (.unassigned56 .w8 (.inline 10) (.inline 10)),
       some (.unassigned57 .w8 (.inline 10) (.inline 10)),
       some (.unassigned58 .w8 (.inline 10) (.inline 10)),
       some (.unassigned59 .w8 (.inline 10) (.inline 10)),
       some (.unassigned60 .w8 (.inline 10) (.inline 10)),
       some (.unassigned61 .w8 (.inline 10) (.inline 10)),
       some (.unassigned62 .w8 (.inline 10) (.inline 10)),
       some (.unassigned63 .w8 (.inline 10) (.inline 10))] := by decide
/-- The eight operand forms (R76, vectors L2-RS). -/
theorem test_decode_operand_forms :
    [[0x2C, 0x20],
     [0x2C, 0x7F],
     [0x2C, 0x1F, 0x05],
     [0x2E, 0x00, 0x11, 0x22, 0x33, 0x44],
     [0x2C, 0x40, 0x02, 0x00],
     [0x2E, 0x9F],
     [0x2C, 0xC4],
     [0x2C, 0xA0],
     [0x2C, 0xBF],
     [0x2C, 0xE1]].map whole =
      [some (.inc .w8 (.inline 0)),
       some (.inc .w8 (.inlinePtr 31)),
       some (.inc .w8 (.literal 31 5)),
       some (.inc .w32 (.literal 0 0x11223344)),
       some (.inc .w8 (.literalPtr 0 0x200)),
       some (.inc .w32 (.reg 31)),
       some (.inc .w8 (.regPtr 4)),
       some (.inc .w8 (.special 0)),
       some (.inc .w8 (.special 31)),
       some (.inc .w8 (.specialPtr 1))] := by decide
/-- Bits-mode 3 is reserved on an opcode with operands (R72, vectors L2-D3, L2-D10); a prefix of an encoding does not
decode. -/
theorem test_decode_refuses :
    [[0x0B, 0x80], [0xFF, 0x80, 0x80], [0x44, 0x80, 0x00], []].map whole = [none, none, none, none] := by decide
/-- The host's reading of an opcode-table word: the low byte is the first byte, the bits above are 0. -/
theorem test_decode_table_word :
    decodeTableWord 16 0x2A14 = some (.brk .w8 (.inline 10)) ∧
      decodeTableWord 8 0x44 = some (.add .w8 (.literal 0 0) (.literal 0 0)) := by decide
/-- The two longest encodings are 11 bytes (R80). -/
theorem test_encode_longest :
    encode params (.add .w32 (.literal 0 0x11223344) (.literal 0 0x55667788))
      = [0x46, 0x00, 0x11, 0x22, 0x33, 0x44, 0x00, 0x55, 0x66, 0x77, 0x88] := by decide

/-! ## One step of each instruction -/

/-- R171. -/
theorem test_inc : regsAfter 6 [0x2D, 0x84] [0x00, 0x00, 0x00, 0x00, 0x12, 0x34] = some [0x00, 0x00, 0x00, 0x00, 0x12, 0x35] := by decide
/-- Vector L2-A1: no carry into the next byte. -/
theorem test_inc_wraps : regsAfter 2 [0x2C, 0x80] [0xFF, 0x07] = some [0x00, 0x07] := by decide
/-- Vector L2-A3. -/
theorem test_dec : regsAfter 2 [0x30, 0x80] [0x00, 0x07] = some [0xFF, 0x07] := by decide
/-- R173. -/
theorem test_not : regsAfter 1 [0x34, 0x80] [0x0F] = some [0xF0] := by decide
/-- Vector L2-A6: the corner of two's complement. -/
theorem test_neg : regsAfter 1 [0x38, 0x80] [0x80] = some [0x80] := by decide
/-- Vector L1-8. -/
theorem test_bswap32 : regsAfter 4 [0x3E, 0x80] [0x11, 0x22, 0x33, 0x44] = some [0x44, 0x33, 0x22, 0x11] := by decide
/-- Vector L2-A8. -/
theorem test_bswap16 : regsAfter 3 [0x3D, 0x80] [0x12, 0x34, 0x56] = some [0x34, 0x12, 0x56] := by decide
/-- Vector L2-A9. -/
theorem test_add : regsAfter 2 [0x44, 0x80, 0x00, 0x20] [0xF0, 0x07] = some [0x10, 0x07] := by decide
/-- R177. -/
theorem test_sub : regsAfter 1 [0x48, 0x80, 0x00, 0x01] [0x00] = some [0xFF] := by decide
/-- Vector L2-A13. -/
theorem test_mul : regsAfter 1 [0x4C, 0x80, 0x00, 0xFF] [0xFF] = some [0x01] := by decide
/-- R179. -/
theorem test_div : regsAfter 1 [0x50, 0x80, 0x00, 0x02] [0x07] = some [0x03] := by decide
/-- Vector L2-F1: the register is unchanged and PC stays. -/
theorem test_div_by_zero : faultAfter [0x50, 0x80, 0x00, 0x00] [0x07] = some (.divideByZero, 0) ∧
    regsAfter 1 [0x50, 0x80, 0x00, 0x00] [0x07] = some [0x07] := by decide
/-- Vectors L2-A17 to L2-A29. -/
theorem test_and : regsAfter 1 [0x54, 0x80, 0x00, 0x3C] [0xF0] = some [0x30] := by decide
/-- Vectors L2-A17 to L2-A29. -/
theorem test_nand : regsAfter 1 [0x58, 0x80, 0x00, 0x3C] [0xF0] = some [0xCF] := by decide
/-- Vectors L2-A17 to L2-A29. -/
theorem test_or : regsAfter 1 [0x5C, 0x80, 0x00, 0x0C] [0xF0] = some [0xFC] := by decide
/-- Vectors L2-A17 to L2-A29. -/
theorem test_nor : regsAfter 1 [0x60, 0x80, 0x00, 0x0C] [0xF0] = some [0x03] := by decide
/-- Vectors L2-A17 to L2-A29. -/
theorem test_xor : regsAfter 1 [0x64, 0x80, 0x00, 0x0F] [0xFF] = some [0xF0] := by decide
/-- Vectors L2-A17 to L2-A29. -/
theorem test_bset : regsAfter 1 [0x68, 0x80, 0x00, 0x07] [0x00] = some [0x80] := by decide
/-- Vectors L2-A17 to L2-A29. -/
theorem test_bclr : regsAfter 1 [0x6C, 0x80, 0x00, 0x00] [0xFF] = some [0xFE] := by decide
/-- Vectors L2-A17 to L2-A29. -/
theorem test_shl : regsAfter 1 [0x70, 0x80, 0x00, 0x01] [0x81] = some [0x02] := by decide
/-- Vectors L2-A17 to L2-A29. -/
theorem test_shr : regsAfter 1 [0x74, 0x80, 0x00, 0x07] [0x80] = some [0x01] := by decide
/-- Vectors L2-A17 to L2-A29. -/
theorem test_ror : regsAfter 1 [0x7C, 0x80, 0x00, 0x01] [0x81] = some [0xC0] := by decide
/-- Vectors L2-A21, L2-A25: an index or a count of 32. -/
theorem test_range_faults : faultAfter [0x68, 0x80, 0x00, 0x20] [] = some (.bitIndexRange 32, 0) ∧
    faultAfter [0x6C, 0x80, 0x20] [] = some (.bitIndexRange 32, 0) ∧
    faultAfter [0x70, 0x80, 0x20] [] = some (.shiftRange 32, 0) ∧
    faultAfter [0x74, 0x80, 0x20] [] = some (.shiftRange 32, 0) := by decide
/-- Vector L1-7: bit 7 goes to bit 0, the next register is untouched. -/
theorem test_rol : regsAfter 2 [0x78, 0x80, 0x00, 0x01] [0x80, 0x5A] = some [0x01, 0x5A] := by decide
/-- Vector L2-A27: the count is taken modulo 8. -/
theorem test_rol_nine : regsAfter 1 [0x78, 0x80, 0x00, 0x09] [0x81] = some [0x03] := by decide
/-- Vector L2-A30. -/
theorem test_ror_seventeen : regsAfter 2 [0x7D, 0x80, 0x00, 0x00, 0x11] [0x00, 0x01] = some [0x80, 0x00] := by decide
/-- Vector L2-A31. -/
theorem test_xchg : regsAfter 2 [0x80, 0x80, 0x81] [0x01, 0x02] = some [0x02, 0x01] := by decide
/-- Vector L2-A32: two overlapping 16-bit registers. -/
theorem test_xchg_overlapping : regsAfter 3 [0x81, 0x80, 0x81] [0xAA, 0xBB, 0xCC] = some [0xBB, 0xAA, 0xBB] := by decide
/-- R192. -/
theorem test_mov : regsAfter 2 [0x84, 0x81, 0x00, 0x09] [0x00, 0x00] = some [0x00, 0x09] := by decide
/-- R118: SP takes a byte zero-extended (vector L2-A35); PC takes 1, then step 6 adds 3 (program P4). -/
theorem test_mov_to_special : (after [0x84, 0xA1, 0x00, 0x34] []).map (fun t => t.sp) = some 0x0034 ∧
    (after [0x84, 0xA0, 0x00, 0x01] []).map (fun t => t.pc) = some 0x0004 := by decide
/-- Vector L2-CM4: a literal address stores big-endian. -/
theorem test_mov_to_memory : (after [0x85, 0x40, 0x02, 0x00, 0x00, 0xAB, 0xCD] []).map (fun t => t.mem.readBytes 0x200 2)
    = some [0xAB, 0xCD] := by decide
/-- Vectors L2-K1, L2-K2. -/
theorem test_nop : skipAfter [0x00] [] = some (1, false) ∧ skipAfter [0x03] [] = some (1, false) := by decide
/-- Vector L2-K3; and R151 for the operands of L2-K4, 0x40 + 1 (that vector prints 0x0042, log 12): the operand length is
added after the jump. -/
theorem test_jmp : skipAfter [0x09, 0x00, 0x01, 0x00] [] = some (0x103, false) ∧ skipAfter [0x08, 0x80] [0x40] = some (0x41, false) := by
  decide
/-- Vectors L2-K5, L2-K6. -/
theorem test_call : stackAfter (image [0x0E, 0x00, 0x00, 0x00, 0x10, 0x00] []) 0xFFFD 2 = some (0x1005, 0xFFFD, [0x00, 0x06]) := by
  decide
theorem test_call_faults : (answer (step ((image [0x0D, 0x00, 0x00, 0x0D] []).setSp 1))).bind (fun t => t.faulted)
    = some (.crossTopAccess 0xFFFF 2, 0) := by decide
/-- R153 and vector L2-K7. -/
theorem test_ret : stackAfter (((image [0x05] []).load 0xFFFD [0x00, 0x04]).setSp 0xFFFD) 0xFFFD 2
    = some (0x0004, 0xFFFF, [0x00, 0x04]) := by decide
theorem test_ret_faults : faultAfter [0x05] [] = some (.crossTopAccess 0xFFFF 2, 0) := by decide
/-- Vectors L2-K8, L2-K9: the operand is resolved before SP moves. -/
theorem test_push : stackAfter (image [0x12, 0x00, 0xDE, 0xAD, 0xBE, 0xEF] []) 0xFFFB 4
    = some (6, 0xFFFB, [0xDE, 0xAD, 0xBE, 0xEF]) := by decide
theorem test_push_sp : stackAfter (image [0x10, 0xA1] []) 0xFFFE 1 = some (2, 0xFFFE, [0xFF]) := by decide
/-- Vectors L2-K11, L2-K12: the commit follows the increment of SP. -/
theorem test_pop_sp : stackAfter (((image [0x41, 0xA1] []).load 0xFFFB [0x12, 0x34]).setSp 0xFFFB) 0xFFFB 2
    = some (2, 0x1234, [0x12, 0x34]) := by decide
theorem test_pop_through_sp : stackAfter (((image [0x41, 0xE1] []).load 0xFFF9 [0xAB, 0xCD]).setSp 0xFFF9) 0xFFFB 2
    = some (2, 0xFFFB, [0xAB, 0xCD]) := by decide
/-- A state with both hooks installed and one answer queued. -/
def hooked (answers : List HostAnswer) (bytes regs : List Byte) : State :=
  { (((image bytes regs).registerHook .breakpoint).registerHook .interrupt) with hostAnswers := answers }
/-- Vectors L2-K13, L2-K14. -/
theorem test_brk : (answer (step (hooked [.continue] [0x14, 0x2A] []))).map (fun t => (t.events, t.pc))
    = some ([⟨.breakpoint, 42, 0⟩], 2) ∧
    faultAfter [0x14, 0x2A] [] = some (.hostHookMissing .breakpoint, 0) := by decide
/-- Vector L2-K16: the run ends inside the cycle. -/
theorem test_brk_stop : (answer (step (hooked [.stop] [0x14, 0x2A] []))).map (fun t => (t.stopped, t.pc))
    = some (some ⟨.breakpoint, 42, 0⟩, 1) := by decide
/-- Vector L2-K15. -/
theorem test_int : (answer (step (hooked [.continue] [0x1A, 0x80] [0, 0, 1, 0]))).map (fun t => (t.events, t.pc))
    = some ([⟨.interrupt, 0x100, 0⟩], 2) ∧
    faultAfter [0x18, 0x80] [] = some (.hostHookMissing .interrupt, 0) := by decide
/-- R236: the host starts a cycle from inside the callback. -/
theorem test_int_reentrant : (answer (step (hooked [.reenter] [0x18, 0x80] []))).map (fun t => (t.faulted, t.pc))
    = some (some (.reentrantCycle, 0), 0) := by decide
/-- Vectors L2-Q1, L2-Q2. -/
theorem test_jz : skipAfter [0x1C, 0x80] [0x00] = some (2, false) ∧
    skipAfter [0x1C, 0x80] [0x05] = some (2, true) := by decide
/-- R202. -/
theorem test_snz : skipAfter [0x20, 0x28] [] = some (2, true) ∧
    skipAfter [0x20, 0x80] [0x00] = some (2, false) := by decide
/-- Vectors L2-Q3, L2-Q4. -/
theorem test_jnz : skipAfter [0x24, 0x80] [0x00] = some (2, true) ∧
    skipAfter [0x25, 0x80] [0x01, 0x00] = some (2, false) := by decide
/-- R204. -/
theorem test_sz : skipAfter [0x28, 0x80] [0x00] = some (2, true) ∧
    skipAfter [0x28, 0x80] [0x02] = some (2, false) := by decide
/-- Vector L2-Q5. -/
theorem test_je : skipAfter [0x88, 0x00, 0x05, 0x00, 0x06] [] = some (5, true) ∧
    skipAfter [0x88, 0x00, 0x05, 0x00, 0x05] [] = some (5, false) := by decide
/-- R206. -/
theorem test_sne : skipAfter [0x8C, 0x00, 0x05, 0x00, 0x05] [] = some (5, false) ∧
    skipAfter [0x8C, 0x00, 0x05, 0x00, 0x06] [] = some (5, true) := by decide
/-- R207. -/
theorem test_jne : skipAfter [0x90, 0x00, 0x05, 0x00, 0x05] [] = some (5, true) ∧
    skipAfter [0x90, 0x00, 0x05, 0x00, 0x06] [] = some (5, false) := by decide
/-- R208, vector L2-S5. -/
theorem test_se : skipAfter [0x94, 0x00, 0x05, 0x00, 0x05] [] = some (5, true) ∧
    skipAfter [0x94, 0x00, 0x05, 0x00, 0x06] [] = some (5, false) := by decide
/-- Vector L2-Q7; unsigned. -/
theorem test_jl : skipAfter [0x98, 0x00, 0xFF, 0x00, 0x01] [] = some (5, true) ∧
    skipAfter [0x98, 0x00, 0x01, 0x00, 0x02] [] = some (5, false) := by decide
/-- Vector L2-Q7. -/
theorem test_sge : skipAfter [0x9C, 0x00, 0x01, 0x00, 0x01] [] = some (5, true) ∧
    skipAfter [0x9C, 0x00, 0x01, 0x00, 0x02] [] = some (5, false) := by decide
/-- Vector L2-Q8. -/
theorem test_jge : skipAfter [0xA0, 0x00, 0x01, 0x00, 0x02] [] = some (5, true) ∧
    skipAfter [0xA0, 0x00, 0xFF, 0x00, 0x01] [] = some (5, false) := by decide
/-- Vector L2-Q8. -/
theorem test_sl : skipAfter [0xA4, 0x00, 0x01, 0x00, 0x02] [] = some (5, true) ∧
    skipAfter [0xA4, 0x00, 0xFF, 0x00, 0x01] [] = some (5, false) := by decide
/-- Vector L2-Q9. -/
theorem test_jg : skipAfter [0xA8, 0x00, 0x01, 0x00, 0x01] [] = some (5, true) ∧
    skipAfter [0xA8, 0x00, 0x02, 0x00, 0x01] [] = some (5, false) := by decide
/-- Vector L2-Q9. -/
theorem test_sle : skipAfter [0xAC, 0x00, 0x01, 0x00, 0x01] [] = some (5, true) ∧
    skipAfter [0xAC, 0x00, 0x02, 0x00, 0x01] [] = some (5, false) := by decide
/-- Vector L2-Q10. -/
theorem test_jle : skipAfter [0xB1, 0x00, 0x80, 0x00, 0x00, 0x7F, 0xFF] [] = some (7, true) ∧
    skipAfter [0xB1, 0x00, 0x00, 0x01, 0x00, 0x00, 0x01] [] = some (7, false) := by decide
/-- Vector L2-Q10. -/
theorem test_sg : skipAfter [0xB5, 0x00, 0x80, 0x00, 0x00, 0x7F, 0xFF] [] = some (7, true) ∧
    skipAfter [0xB5, 0x00, 0x00, 0x01, 0x00, 0x00, 0x01] [] = some (7, false) := by decide
/-- Vector L2-Q11. -/
theorem test_jbs : skipAfter [0xB8, 0x00, 0x04, 0x00, 0x02] [] = some (5, false) ∧
    skipAfter [0xB8, 0x00, 0x04, 0x00, 0x08] [] = some (5, true) := by decide
/-- Vector L2-Q11. -/
theorem test_sbc : skipAfter [0xBC, 0x00, 0x04, 0x00, 0x02] [] = some (5, false) ∧
    skipAfter [0xBC, 0x00, 0x04, 0x00, 0x01] [] = some (5, true) := by decide
/-- Vector L2-Q12. -/
theorem test_jbc : skipAfter [0xC0, 0x00, 0x04, 0x00, 0x02] [] = some (5, true) ∧
    skipAfter [0xC0, 0x00, 0x04, 0x00, 0x08] [] = some (5, false) := by decide
/-- Vector L2-Q12. -/
theorem test_sbs : skipAfter [0xC4, 0x00, 0x04, 0x00, 0x02] [] = some (5, true) ∧
    skipAfter [0xC4, 0x00, 0x04, 0x00, 0x08] [] = some (5, false) := by decide
/-- Vector L2-Q14. -/
theorem test_bit_index_range : faultAfter [0xB8, 0x00, 0x04, 0x20] [] = some (.bitIndexRange 32, 0) ∧
    faultAfter [0xC4, 0x00, 0x04, 0x00, 0x20] [] = some (.bitIndexRange 32, 0) := by decide
/-- Vector L2-K17 and the last unassigned number. -/
theorem test_unassigned : skipAfter [0xC8, 0x2A, 0x2A] [] = some (3, false) ∧ skipAfter [0xFC, 0x2A, 0x2A] [] = some (3, false) := by
  decide
/-- Vectors L2-F3 to L2-F6: which fault comes first. -/
theorem test_fault_priority : faultAfter [0x51, 0x40, 0xFF, 0xFF, 0x00, 0x00, 0x00] [] = some (.crossTopAccess 0xFFFF 2, 0) ∧
    faultAfter [0x87, 0x80, 0x81] [] = some (.reservedBitsMode 33, 0) ∧
    faultAfter [0x84, 0xA3, 0x00, 0x01] [] = some (.badSpecialRegister 3, 0) ∧
    faultAfter [0x80, 0x80, 0xA7] [] = some (.badSpecialRegister 7, 0) := by decide
/-- Vector L2-RS15: PC as a pointer reads the opcode byte itself, which SNZ finds nonzero. -/
theorem test_pc_pointer : (answer (step ((State.reset.load 0x100 [0x84, 0x80, 0xE0]).setPc 0x100))).map
    (fun t => regBytes t.regs 0 1) = some [0x80] := by decide
/-- Vector L2-S6: a suppressed POP moves SP and commits nothing. -/
theorem test_suppressed_pop : (answer (step ((((image [0x41, 0x84] []).load 0xFFFB [0x12, 0x34]).setSp 0xFFFB).setSkips false true))).map
    (fun t => (t.sp, regBytes t.regs 4 2, t.skipActive)) = some (0xFFFD, [0x00, 0x00], false) := by decide
/-- `withFetchWord` puts the instruction where the next step runs it. -/
theorem test_with_fetch_word : (answer (step (State.reset.withFetchWord 32 0x03008044))).map (fun t => regBytes t.regs 0 1)
    = some [0x03] := by decide

/-! ## Other parameters (00_scope R8, 30_encoding R83, R84) -/

/-- Another opcode map: RET 0, INC 1, number 2 unassigned in the one-operand band, ADD 3, MOV 4. -/
def otherParams : Params :=
  { params with
    opcodeMap := [some (.zero .ret), some (.one .inc), none, some (.two .add), some (.two .mov)]
    band1 := 1, band2 := 3, resultLo := 1, resultHi := 4 }

/-- PC and the first two register bytes after one step under the other map. -/
def afterOther (bytes regs : List Byte) : Option (Addr × List Byte) :=
  (answer (stepWith otherParams (image bytes regs))).map fun t => (t.pc, regBytes t.regs 0 2)

/-- INC, ADD and MOV under their other numbers; the unassigned number of the result band takes one operand and commits
result 0 (R84, R136); a number past the list does nothing (R164). -/
theorem test_other_opcode_map : otherParams.admissible = true ∧
    afterOther [0x04, 0x80] [0x41, 0x07] = some (2, [0x42, 0x07]) ∧
    afterOther [0x0C, 0x80, 0x81] [0x41, 0x07] = some (3, [0x48, 0x07]) ∧
    afterOther [0x10, 0x80, 0x81] [0x41, 0x07] = some (3, [0x07, 0x07]) ∧
    afterOther [0x08, 0x80] [0x41, 0x07] = some (2, [0x00, 0x07]) ∧
    afterOther [0x2C, 0x80, 0x81] [0x41, 0x07] = some (3, [0x41, 0x07]) := by decide

/-- The decoder and the encoder read the same map. -/
theorem test_other_map_decodes : decode otherParams [0x0C, 0x80, 0x81] = .ok (.add .w8 (.reg 0) (.reg 1), []) ∧
    encode otherParams (.add .w8 (.reg 0) (.reg 1)) = [0x0C, 0x80, 0x81] := by decide

/-- Between cycles the host writes a hook's slot either way (R264). -/
theorem test_host_writes_hooks :
    ((State.reset.hostAct (.writeHook .breakpoint true)).hostAct (.writeHook .breakpoint false)).hookBrk = false ∧
    ((State.reset.hostAct (.registerHook .interrupt)).hostAct (.writeHook .interrupt false)).hookInt = false ∧
    (State.reset.hostAct (.writeHook .interrupt true)).hookInt = true := by decide

/-! ## Witnesses: the hypotheses of the statements can be met, each clause at a boundary -/

theorem witness_DecodeOfEncodeIsTheInstruction :
    (Instr.add .w8 (.literal 31 0xFF) (.literal 0 0)).wf = true ∧
      (Instr.mov .w32 (.literal 0 0xFFFFFFFF) (.specialPtr 31)).wf = true := by decide

theorem witness_EncodeOfDecodeIsTheBytes : decode params [0x2C, 0x1F, 0x05, 0x99] = .ok (.inc .w8 (.literal 31 5), [0x99]) := rfl

theorem witness_ElevenBytesHoldAnInstruction : 11 ≤ (fetchWindow State.reset).length := by decide

/-- The numbers 1, 2, 16 and 17, on both sides of each band boundary. -/
theorem witness_ArityIsReadFromTheBands :
    decode params [0x07] = .ok (.ret 3, []) ∧ decode params [0x08, 0x80] = .ok (.jmp .w8 (.reg 0), []) ∧
      decode params [0x42, 0x80] = .ok (.pop .w32 (.reg 0), []) ∧
      decode params [0x45, 0x80, 0x81] = .ok (.add .w16 (.reg 0) (.reg 1), []) := ⟨rfl, rfl, rfl, rfl⟩

theorem witness_ReservedBitsModeFaults : ∀ b ∈ ([0x0B, 0xFF] : List Byte),
    (image [b] []).faulted = none ∧ (image [b] []).stopped = none ∧
      ((image [b] []).mem.read (image [b] []).pc).toNat % 4 = 3 ∧
      8 ≤ ((image [b] []).mem.read (image [b] []).pc).toNat := by decide

theorem witness_StepRunsTheDecodedInstruction :
    (image [0x14, 0x2A] []).faulted = none ∧ (image [0x14, 0x2A] []).stopped = none ∧
      decode params ((image [0x14, 0x2A] []).mem.readBytes (image [0x14, 0x2A] []).pc 11)
        = .ok (.brk .w8 (.inline 10), List.replicate 9 0) := ⟨rfl, rfl, rfl⟩

/-- An instruction whose bytes lie at 0xFFFF and 0: the fetch wraps (R53). -/
def acrossTop : State := (State.reset.load 0xFFFF [0x14, 0x2A]).setPc 0xFFFF

theorem witness_StepRunsTheEncodedInstruction :
    acrossTop.faulted = none ∧ acrossTop.stopped = none ∧ (Instr.brk .w8 (.inline 10)).wf = true ∧
      acrossTop.mem.readBytes acrossTop.pc (encode params (.brk .w8 (.inline 10))).length
        = encode params (.brk .w8 (.inline 10)) := by decide

theorem witness_EveryRunningStateTakesACycle :
    (State.reset.raise .divideByZero).faulted = some (.divideByZero, 0) ∧
      (State.reset.setStopped (some ⟨.breakpoint, 42, 0⟩)).faulted = none ∧
      (State.reset.setStopped (some ⟨.breakpoint, 42, 0⟩)).stopped = some ⟨.breakpoint, 42, 0⟩ ∧
      State.reset.faulted = none ∧ State.reset.stopped = none := by decide

theorem witness_MemoryPrimitivesAreBigEndian :
    (0xFFFE : Addr).toNat + 1 ≤ 0xFFFF ∧ (0xFFFC : Addr).toNat + 3 ≤ 0xFFFF ∧ State.reset.mem.wf = true ∧
      (0xFFFF : Addr).toNat + 1 ≤ 65536 ∧ (0xFFFC : Addr).toNat + 4 ≤ 65536 ∧ outside 0xFFFC 4 0 := by
  refine ⟨by decide, by decide, by decide, by decide, by decide, ?_⟩
  unfold outside
  decide

theorem witness_CrossTopAccessFaultsOrWraps :
    0xFFFF < (0xFFFF : Addr).toNat + 2 - 1 ∧ 0xFFFF < (0xFFFD : Addr).toNat + 4 - 1 ∧
      ({ params with crossTopPolicy := .wrap } : Params).crossTopPolicy = .wrap ∧ State.reset.mem.wf = true := by decide

theorem witness_RegisterWriteReadsBackAndOverlaps :
    (34 : Nat) < 31 + 4 ∧ (30 : Nat) < (31 : BitVec 5).toNat ∧ (31 : BitVec 5).toNat + 4 ≤ 35 ∧
      (31 : BitVec 5).toNat = (30 : BitVec 5).toNat + 1 := by decide

/-- The bytes from address 1 on are an operand at `ip0` = 1, offset 0, in each form's first and last descriptor. -/
theorem witness_InlineForms : ∀ d ∈ ([0x20, 0x3F, 0x60, 0x7F] : List Byte),
    (image [0x2C, d] []).mem.read (1 + BitVec.ofNat 16 0) = d := by decide

theorem witness_LiteralForm :
    ((image [0x2E, 0x1F, 0x11, 0x22, 0x33, 0x44] []).mem.read (1 + BitVec.ofNat 16 0)).toNat ≤ 0x1F ∧
      memRead params (image [0x2E, 0x1F, 0x11, 0x22, 0x33, 0x44] []).mem (1 + BitVec.ofNat 16 0 + 1) 4 = .ok 0x11223344 ∧
      (State.reset.mem.read (0xFFFC + BitVec.ofNat 16 0)).toNat ≤ 0x1F ∧
      0xFFFF < (0xFFFC + BitVec.ofNat 16 0 + 1 : Addr).toNat + Width.w32.bytes - 1 := by
  refine ⟨by decide, rfl, by decide, by decide⟩

/-- A literal address 0x0200 that loads and stores, one that crosses the top, and a literal that itself does. -/
theorem witness_LiteralAddressForm :
    ((image [0x2D, 0x5F, 0x02, 0x00] []).mem.read (1 + BitVec.ofNat 16 0)).toNat = 0x5F ∧
      memRead params (image [0x2D, 0x5F, 0x02, 0x00] []).mem (1 + BitVec.ofNat 16 0 + 1) 2 = .ok 0x0200 ∧
      memRead params (image [0x2D, 0x5F, 0x02, 0x00] []).mem ((0x0200 : Word).setWidth 16) 2 = .ok 0 ∧
      memWrite params State.reset.mem ((0x0200 : Word).setWidth 16) 2 0xABCD = .ok ⟨[(0x200, 0xAB), (0x201, 0xCD)]⟩ ∧
      memRead params (image [0x2D, 0x40, 0xFF, 0xFF] []).mem (1 + BitVec.ofNat 16 0 + 1) 2 = .ok 0xFFFF ∧
      0xFFFF < ((0xFFFF : Word).setWidth 16).toNat + Width.w16.bytes - 1 ∧
      ((State.reset.load 0xFFFE [0x40]).mem.read (0xFFFE + BitVec.ofNat 16 0)).toNat = 0x40 ∧
      (0xFFFE + BitVec.ofNat 16 0 + 1 : Addr).toNat = 0xFFFF := by
  refine ⟨by decide, rfl, rfl, rfl, rfl, by decide, by decide, by decide⟩

theorem witness_RegisterForm : ∀ r ∈ ([0, 31] : List (BitVec 5)),
    ((image [0x2C, 0x80 + r.setWidth 8] []).mem.read (1 + BitVec.ofNat 16 0)).toNat = 0x80 + r.toNat := by decide

/-- r31 as a pointer takes its low byte from the padding. -/
theorem witness_RegisterPointerForm :
    ((image [0x2C, 0xDF] []).mem.read (1 + BitVec.ofNat 16 0)).toNat = 0xC0 + (31 : BitVec 5).toNat ∧
      (0 : Addr).toNat = (regByte (image [0x2C, 0xDF] []).regs 31).toNat * 2 ^ 8
        + (regByte (image [0x2C, 0xDF] []).regs (31 + 1)).toNat ∧
      memRead params (image [0x2C, 0xDF] []).mem 0 1 = .ok 0x2C ∧
      ((image [0x2E, 0xC0] [0xFF, 0xFE]).mem.read (1 + BitVec.ofNat 16 0)).toNat = 0xC0 + (0 : BitVec 5).toNat ∧
      (0xFFFE : Addr).toNat = (regByte (image [0x2E, 0xC0] [0xFF, 0xFE]).regs 0).toNat * 2 ^ 8
        + (regByte (image [0x2E, 0xC0] [0xFF, 0xFE]).regs (0 + 1)).toNat ∧
      0xFFFF < (0xFFFE : Addr).toNat + Width.w32.bytes - 1 := by
  refine ⟨by decide, by decide, rfl, by decide, by decide, by decide⟩

theorem witness_SpecialRegisterForm : ∀ d ∈ ([0xA0, 0xA1, 0xA2, 0xBF] : List Byte),
    (image [0x2C, d] []).mem.read (1 + BitVec.ofNat 16 0) = d := by decide

/-- PC as a pointer at `ip0` = 1 reaches address 0; SP at its reset value crosses the top with two bytes. -/
theorem witness_SpecialPointerForm :
    (∀ d ∈ ([0xE0, 0xE1, 0xE2, 0xFF] : List Byte), (image [0x2D, d] []).mem.read (1 + BitVec.ofNat 16 0) = d) ∧
      (0 : Addr) = (atIp0 (image [0x2D, 0xE0] [])).pc + BitVec.ofNat 16 0 - 1 ∧
      memRead params (atIp0 (image [0x2D, 0xE0] [])).mem 0 2 = .ok 0x2DE0 ∧
      0xFFFF < (image [0x2D, 0xE1] []).sp.toNat + Width.w16.bytes - 1 := by
  refine ⟨by decide, by decide, rfl, by decide⟩

theorem witness_ResolvedOperandFitsTheWidth :
    (Operand.literal 0 0xFF).wf .w8 = true ∧ resolve params State.reset 1 0 .w8 (.literal 0 0xFF) = .ok ⟨0xFF, 2, none⟩ :=
  ⟨rfl, rfl⟩

theorem witness_CommittedValueIsTruncated :
    State.reset.mem.wf = true ∧
      commitTo params State.reset 1 0 .w16 0x12345678 (.reg 31) = .ok (State.reset.regWrite 31 2 0x12345678) ∧
      pointerAddr params State.reset 1 0 (.inlinePtr 0) = .ok (some 0x20) ∧
      commitTo params State.reset 1 0 .w8 0x1FF (.inlinePtr 0) = .ok (State.reset.setMem ⟨[(0x20, 0xFF)]⟩) :=
  ⟨rfl, rfl, rfl, rfl⟩

theorem witness_OperandFaultsEndTheCycle :
    failsA (image [0x2C, 0xA2] []) .w8 (.special 2) (.badSpecialRegister 2) ∧
      failsA (image [0x2D, 0xE1] []) .w16 (.specialPtr 1) (.crossTopAccess 0xFFFF 2) ∧
      readsA (image [0x44, 0x80, 0xBF] [4]) .w8 (.reg 0) ⟨4, 1, none⟩ ∧
      failsB (image [0x44, 0x80, 0xBF] [4]) .w8 ⟨4, 1, none⟩ (.special 31) (.badSpecialRegister 31) := ⟨rfl, rfl, rfl, rfl⟩

/-- One operand: IncAddSubResults, DecNegMulDivResults, BitwiseResults and ByteSwapResult (the instructions of arity 1),
JumpLandsPastItsOperand. -/
theorem witness_oneOperand :
    readsA (image [0x2C, 0x80] [4]) .w8 (.reg 0) ⟨4, 1, none⟩ ∧ (image [0x2C, 0x80] [4]).skipActive = false := ⟨rfl, rfl⟩

/-- Two operands: IncAddSubResults, DecNegMulDivResults, BitwiseResults, RotateResults, MoveResult (arity 2). -/
theorem witness_twoOperands :
    readsA (image [0x44, 0x80, 0x00, 0x03] [4]) .w8 (.reg 0) ⟨4, 1, none⟩ ∧
      readsB (image [0x44, 0x80, 0x00, 0x03] [4]) .w8 ⟨4, 1, none⟩ (.literal 0 3) ⟨3, 2, none⟩ ∧
      (image [0x44, 0x80, 0x00, 0x03] [4]).skipActive = false := ⟨rfl, rfl, rfl⟩

/-- B at 0 and 1 (DIV), at 31 and 32 (the shifts and the bit operations): DecNegMulDivResults, BitAndShiftResults. -/
theorem witness_twoOperandResultOrFault : ∀ v ∈ ([0, 1, 31, 32] : List Word),
    readsA (image [0x50, 0x80, 0x00, v.setWidth 8] [7]) .w8 (.reg 0) ⟨7, 1, none⟩ ∧
      readsB (image [0x50, 0x80, 0x00, v.setWidth 8] [7]) .w8 ⟨7, 1, none⟩ (.literal 0 v) ⟨v, 2, none⟩ :=
  fun _ _ => ⟨rfl, rfl⟩

theorem witness_RotateMovesEveryBit :
    (0xFF : Word).toNat < 2 ^ Width.w8.bits ∧ 7 < Width.w8.bits ∧ Width.w8.bits ≤ 8 := by decide

/-- XCHG.16 r0, [r0] with r0 = 0x0200 and 0xFFFF there: the first commit moves the pointer, and the second crosses the
top. -/
def movingPointer : State := (image [0x81, 0x80, 0xC0] [0x02, 0x00]).load 0x0200 [0xFF, 0xFF]

theorem witness_ExchangeCommitsTwice :
    readsA movingPointer .w16 (.reg 0) ⟨0x0200, 1, none⟩ ∧
      readsB movingPointer .w16 ⟨0x0200, 1, none⟩ (.regPtr 0) ⟨0xFFFF, 1, some 0x0200⟩ ∧
      movingPointer.skipActive = false ∧
      commitTo params ((atIp0 movingPointer).regWrite 0 2 0xFFFF) 1 1 .w16 0x0200
        (operandAt params movingPointer.mem (1 + BitVec.ofNat 16 1) .w16) = .error (.crossTopAccess 0xFFFF 2) ∧
      commitTo params ((atIp0 (image [0x80, 0x80, 0x81] [1, 2])).regWrite 0 1 2) 1 1 .w8 1
        (operandAt params (image [0x80, 0x80, 0x81] [1, 2]).mem (1 + BitVec.ofNat 16 1) .w8)
        = .ok (((atIp0 (image [0x80, 0x80, 0x81] [1, 2])).regWrite 0 1 2).regWrite 1 1 1) := ⟨rfl, rfl, rfl, rfl, rfl⟩

theorem witness_ExchangeSwapsRegisters :
    (image [0x82, 0x84, 0x80] []).skipActive = false ∧
      (0 : BitVec 5).toNat + Width.w32.bytes ≤ (4 : BitVec 5).toNat ∧
      ((image [0x82, 0x84, 0x80] []).mem.read ((image [0x82, 0x84, 0x80] []).pc + 2)).toNat = 0x80 + (0 : BitVec 5).toNat := by
  decide

theorem witness_UnassignedOpcodesDoNothing :
    ((63, .unassigned63) : BitVec 6 × (Width → Operand → Operand → Instr)) ∈ unassignedMakers ∧
      readsA (image [0xFC, 0x2A, 0x2A] []) .w8 (.inline 10) ⟨42, 1, none⟩ ∧
      readsB (image [0xFC, 0x2A, 0x2A] []) .w8 ⟨42, 1, none⟩ (.inline 10) ⟨42, 1, none⟩ :=
  ⟨by simp [unassignedMakers], rfl, rfl⟩

/-- SP at 1, where the store crosses the top, and at 0 and 2 beside it. -/
theorem witness_CallPushesTheReturnAddress : ∀ sp ∈ ([0, 1, 2] : List Addr),
    readsA ((image [0x0D, 0x00, 0x00, 0x0D] []).setSp sp) .w16 (.literal 0 0x0D) ⟨0x0D, 3, none⟩ := fun _ _ => rfl

theorem witness_ReturnPopsPc : State.reset.sp = 0xFFFF ∧ (State.reset.setSp 0xFFFE).sp ≠ 0xFFFF := by decide

theorem witness_CallThenReturnRestores : ∃ t, State.reset.mem.wf = true ∧ State.reset.faulted = none ∧
    exec (.call .w16 (.literal 0 0x0D)) State.reset = .next t ∧ t.faulted = none := ⟨_, rfl, rfl, rfl, rfl⟩

theorem witness_PushStoresBelowSp :
    readsA (image [0x10, 0xA1] []) .w8 (.special 1) ⟨0xFF, 1, none⟩ ∧
      memWrite params State.reset.mem (State.reset.sp - BitVec.ofNat 16 1) 1 0xFF = .ok ⟨[(0xFFFE, 0xFF)]⟩ ∧
      readsA ((image [0x11, 0x80] []).setSp 1) .w16 (.reg 0) ⟨0, 1, none⟩ ∧
      0xFFFF < ((1 : Addr) - BitVec.ofNat 16 Width.w16.bytes).toNat + Width.w16.bytes - 1 :=
  ⟨rfl, rfl, rfl, by decide⟩

/-- POP.16 [SP] with SP = 0xFFFD: the load is legal, and the commit, after SP moved to 0xFFFF, crosses the top. -/
theorem witness_PopLoadsFromSp :
    readsA ((image [0x41, 0xE1] []).setSp 0xFFFD) .w16 (.specialPtr 1) ⟨0, 1, some 0xFFFD⟩ ∧
      memRead params ((image [0x41, 0xE1] []).setSp 0xFFFD).mem 0xFFFD 2 = .ok 0 ∧
      commitTo params { atIp0 ((image [0x41, 0xE1] []).setSp 0xFFFD) with sp := 0xFFFD + BitVec.ofNat 16 2 } 1 0 .w16 0
        (.specialPtr 1) = .error (.crossTopAccess 0xFFFF 2) ∧
      readsA (image [0x41, 0x84] []) .w16 (.reg 4) ⟨0, 1, none⟩ ∧
      0xFFFF < (image [0x41, 0x84] []).sp.toNat + Width.w16.bytes - 1 ∧
      memRead params (image [0x40, 0x84] []).mem 0xFFFF 1 = .ok 0 ∧
      commitTo params { atIp0 (image [0x40, 0x84] []) with sp := 0xFFFF + BitVec.ofNat 16 1 } 1 0 .w8 0 (.reg 4)
        = .ok { atIp0 (image [0x40, 0x84] []) with sp := 0xFFFF + BitVec.ofNat 16 1 } :=
  ⟨rfl, rfl, rfl, rfl, by decide, rfl, rfl⟩

theorem witness_PushThenPopRoundTrips : ∃ t, (image [0x11, 0x00, 0x12, 0x34] []).mem.wf = true ∧
    (image [0x11, 0x00, 0x12, 0x34] []).faulted = none ∧ (Operand.literal 0 0x1234).wf .w16 = true ∧
    readsA (image [0x11, 0x00, 0x12, 0x34] []) .w16 (.literal 0 0x1234) ⟨0x1234, 3, none⟩ ∧
    exec (.push .w16 (.literal 0 0x1234)) (image [0x11, 0x00, 0x12, 0x34] []) = .next t ∧ t.faulted = none ∧
    t.skipActive = false := ⟨_, rfl, rfl, rfl, rfl, rfl, rfl, rfl⟩

theorem witness_HostEscapesContinue :
    readsA (hooked [.continue] [0x14, 0x2A] []) .w8 (.inline 10) ⟨42, 1, none⟩ ∧
      (hooked [.continue] [0x14, 0x2A] []).hookBrk = true ∧ (hooked [.continue] [0x14, 0x2A] []).hookInt = true ∧
      (hooked [.continue] [0x14, 0x2A] []).nextAnswer = .continue ∧
      readsA (image [0x14, 0x2A] []) .w8 (.inline 10) ⟨42, 1, none⟩ ∧ (image [0x14, 0x2A] []).hookBrk = false ∧
      (image [0x14, 0x2A] []).hookInt = false := ⟨rfl, rfl, rfl, rfl, rfl, rfl, rfl⟩

theorem witness_HostEscapesStopOrReenter : ∀ x ∈ ([.stop, .reenter] : List HostAnswer),
    readsA (hooked [x] [0x14, 0x2A] []) .w8 (.inline 10) ⟨42, 1, none⟩ ∧ (hooked [x] [0x14, 0x2A] []).hookBrk = true ∧
      (hooked [x] [0x14, 0x2A] []).hookInt = true ∧ (hooked [x] [0x14, 0x2A] []).nextAnswer = x :=
  fun _ _ => ⟨rfl, rfl, rfl, rfl⟩

/-- A at 0 and 5 for one operand; two operands equal, and the first one above and below: SkipIfNonzeroAndSkipIfEqual,
UnsignedComparisonConditionals. -/
theorem witness_conditionals : ∀ x ∈ ([0, 5, 6] : List Word),
    readsA (image [0x94, 0x00, x.setWidth 8, 0x00, 0x05] []) .w8 (.literal 0 x) ⟨x, 2, none⟩ ∧
      readsB (image [0x94, 0x00, x.setWidth 8, 0x00, 0x05] []) .w8 ⟨x, 2, none⟩ (.literal 0 5) ⟨5, 2, none⟩ :=
  fun _ _ => ⟨rfl, rfl⟩

/-- A set and a clear bit below 32, the last legal index and the first illegal one. -/
theorem witness_BitTestConditionals :
    (∀ v ∈ ([2, 31, 32] : List Word),
      readsA (image [0xC2, 0x80, 0x81] [4]) .w8 (.literal 0 4) ⟨4, 2, none⟩ ∧
      readsB (image [0xC2, 0x80, 0x81] [4]) .w8 ⟨4, 2, none⟩ (.literal 0 v) ⟨v, 2, none⟩) ∧
    (4 : Word).toNat / 2 ^ (2 : Word).toNat % 2 = 1 ∧ (4 : Word).toNat / 2 ^ (31 : Word).toNat % 2 = 0 ∧
      32 ≤ (32 : Word).toNat :=
  ⟨fun _ _ => ⟨rfl, rfl⟩, rfl, rfl, by decide⟩

theorem witness_OnlyAConditionalArmsTheSkip : ∃ t, State.reset.skipNext = false ∧
    exec (.se .w8 (.literal 0 5) (.literal 0 5)) State.reset = .next t ∧ t.faulted = none ∧ t.stopped = none ∧
    t.skipActive = true := ⟨_, rfl, rfl, rfl, rfl, rfl⟩

/-- B at 1 and 31, and SP at 0xFFFF, where one byte can still be popped. -/
theorem witness_SuppressedCyclesCommitNothing : ∀ v ∈ ([1, 31] : List Word),
    ((image [0x50, 0x80, 0x00, v.setWidth 8] [7]).setSkips false true).skipActive = true ∧
      readsA ((image [0x50, 0x80, 0x00, v.setWidth 8] [7]).setSkips false true) .w8 (.reg 0) ⟨7, 1, none⟩ ∧
      readsB ((image [0x50, 0x80, 0x00, v.setWidth 8] [7]).setSkips false true) .w8 ⟨7, 1, none⟩ (.literal 0 v)
        ⟨v, 2, none⟩ ∧
      memRead params (image [] []).mem (image [] []).sp 1 = .ok 0 := fun _ _ => ⟨rfl, rfl, rfl, rfl⟩

/-- A conditional that completes with the latch set and with it clear, and one that faults from the same states. -/
theorem witness_DispatchEffectsIgnoreTheLatch : ∃ t u, (Instr.sz .w8 (.reg 0)).opcode.toNat ≤ 10 ∧
    34 ≤ (Instr.sbs .w8 (.reg 0) (.inline 0)).opcode.toNat ∧ exec (.sz .w8 (.reg 0)) State.reset = .next t ∧
    exec (.sz .w8 (.reg 0)) { State.reset with skipActive := true } = .next u ∧ t.faulted = none ∧ t.stopped = none ∧
    exec (.sbs .w8 (.reg 0) (.inline 0)) State.reset = .next (faultedAt State.reset (.bitIndexRange 32)) ∧
    exec (.sbs .w8 (.reg 0) (.inline 0)) { State.reset with skipActive := true }
      = .next (faultedAt { State.reset with skipActive := true } (.bitIndexRange 32)) ∧
    State.reset.faulted = none ∧ State.reset.stopped = none :=
  ⟨_, _, by decide, by decide, rfl, rfl, rfl, rfl, rfl, rfl, rfl, rfl⟩

/-- MoveResult's clause on an operand A that does not resolve. -/
theorem witness_MoveResult : failsA (image [0x84, 0xA2, 0x80] []) .w8 (.special 2) (.badSpecialRegister 2) := rfl

/-- A commit to memory, to SP and to a register. -/
theorem witness_CommitFrame : ∃ t u v, commitTo params State.reset 1 0 .w8 0x7E (.literalPtr 0 0x200) = .ok t ∧
    pointerAddr params State.reset 1 0 (.literalPtr 0 0x200) = .ok (some 0x200) ∧
    commitTo params State.reset 1 0 .w16 0x5678 (.special 1) = .ok u ∧
    commitTo params State.reset 1 0 .w32 0x5678 (.reg 31) = .ok v ∧
    pointerAddr params State.reset 1 0 (.reg 31) = .ok none := ⟨_, _, _, rfl, rfl, rfl, rfl, rfl⟩

theorem witness_AluAndExchangeFrame : ∃ t u v x, Instr.inc ∈ aluOneMakers ∧ Instr.mov ∈ aluTwoMakers ∧
    exec (.inc .w8 (.reg 0)) State.reset = .next t ∧ exec (.mov .w8 (.inlinePtr 0) (.reg 0)) State.reset = .next u ∧
    exec (.xchg .w16 (.reg 0) (.reg 2)) movingPointer = .next v ∧
    readsA movingPointer .w16 (.reg 0) ⟨0x0200, 1, none⟩ ∧
    readsB movingPointer .w16 ⟨0x0200, 1, none⟩ (.reg 2) ⟨0, 1, none⟩ ∧
    commitTo params (atIp0 movingPointer) 1 0 .w16 0 (.reg 0) = .ok x :=
  ⟨_, _, _, _, by simp [aluOneMakers], by simp [aluTwoMakers, aluTotalMakers], rfl, rfl, rfl, rfl, rfl, rfl⟩

theorem witness_NoStoreFrame : ∃ t u v, exec (.jmp .w8 (.reg 0)) State.reset = .next t ∧
    exec (.sz .w8 (.reg 0)) State.reset = .next u ∧ exec (.je .w8 (.reg 0) (.reg 1)) State.reset = .next v :=
  ⟨_, _, _, rfl, rfl, rfl⟩

/-- Each of PUSH, CALL and POP completing, and POP faulting. -/
theorem witness_StackFrames : ∃ t u v x, State.reset.faulted = none ∧
    exec (.push .w8 (.reg 0)) State.reset = .next t ∧ t.faulted = none ∧
    exec (.call .w8 (.reg 0)) State.reset = .next u ∧ u.faulted = none ∧
    exec (.pop .w8 (.reg 0)) State.reset = .next v ∧ v.faulted = none ∧
    exec (.pop .w16 (.reg 0)) State.reset = .next x ∧ x.faulted = some (.crossTopAccess 0xFFFF 2, 0) :=
  ⟨_, _, _, _, rfl, rfl, rfl, rfl, rfl, rfl, rfl, rfl, rfl⟩

theorem witness_OnlyEscapesReachTheHost : ∃ t u, isEscape (.brk .w8 (.inline 10)) ∧ ¬ isEscape (.nop 0) ∧
    exec (.brk .w8 (.inline 10)) (hooked [.continue] [] []) = .next t ∧ exec (.nop 0) State.reset = .next u :=
  ⟨_, _, trivial, id, rfl, rfl⟩

theorem witness_StepKeepsTheInvariant : ∃ t, (hooked [.stop] [0x14, 0x2A] []).Inv = true ∧
    step (hooked [.stop] [0x14, 0x2A] []) = .next t ∧ t.stopped = some ⟨.breakpoint, 42, 0⟩ :=
  ⟨_, by decide, rfl, rfl⟩

theorem witness_ResetValues : State.reset = State.reset ∧ (image [0x50] [7]).initialize = (image [0x50] [7]).initialize :=
  ⟨rfl, rfl⟩

theorem witness_FaultsArePrecise : ∃ t, step (image [0x50, 0x80, 0x00, 0x00] [7]) = .next t ∧
    t.faulted = some (.divideByZero, 0) := ⟨_, rfl, rfl⟩

/-- The fault an instruction records from a state. -/
def faultOf (i : Instr) (s : State) : Option (ModelFault × Addr) := (answer (exec i s)).bind fun t => t.faulted

theorem witness_FaultsComeFromTheirInstructions : State.reset.faulted = none ∧
    faultOf (.div .w8 (.reg 0) (.literal 0 0)) State.reset = some (.divideByZero, 0) ∧
    faultOf (.shl .w8 (.reg 0) (.inline 0)) State.reset = some (.shiftRange 32, 0) ∧
    faultOf (.sbs .w8 (.reg 0) (.inline 0)) State.reset = some (.bitIndexRange 32, 0) ∧
    faultOf (.int .w8 (.reg 0)) State.reset = some (.hostHookMissing .interrupt, 0) ∧
    faultOf (.brk .w8 (.reg 0)) (hooked [.reenter] [] []) = some (.reentrantCycle, 0) ∧
    faultOf (.inc .w8 (.special 2)) State.reset = some (.badSpecialRegister 2, 0) ∧
    faultOf (.ret 0) State.reset = some (.crossTopAccess 0xFFFF 2, 0) := by decide

/-- An image that wraps past the top of memory. -/
theorem witness_LoadCopiesTheImage : State.reset.mem.wf = true ∧ ([0x14, 0x2A] : List Byte).length ≤ 65536 ∧
    (1 : Nat) < ([0x14, 0x2A] : List Byte).length ∧
    ((State.reset.load 0xFFFF [0x14, 0x2A]).mem.read 0) = 0x2A := by decide

end Sys2Proof.Tests
end

section
/-! PROOF. The family 00_scope: every running state takes a cycle (R8, R84, R142, R255), the step is `exec` of the
decoded instruction (R131, R141), and a resolved operand is below `2^wbits` (R10, R100). -/

/-! ## What a decoded operand and a decoded instruction fit into -/

namespace Sys2Proof

/-- Bytes read as a number fit their own length, whatever the width of the word that keeps it. -/
theorem toNat_ofNat_beValue_lt (k : Nat) (bs : List Byte) :
    (BitVec.ofNat k (beValue bs)).toNat < 256 ^ bs.length := by
  rw [BitVec.toNat_ofNat]
  exact (Nat.mod_le _ _).trans_lt (beValue_lt bs)

/-- An operand is well formed when it is made of as many bytes as its descriptor asks for (R76, R78). -/
theorem operandOf_wf (P : Params) (w : Width) (d : Byte) {extra : List Byte} (h : extra.length = extraBytes P w d) :
    (operandOf P d extra).wf w = true := by
  have hv := toNat_ofNat_beValue_lt 32 extra
  unfold operandOf
  unfold extraBytes at h
  cases hr : isRegister P d <;> cases hp : isPointer d <;> cases hi : isInlineOrSpecial d
  case false.false.false =>
    simp only [hr, hp, hi, Bool.or_self, Bool.false_eq_true, if_false] at h
    simpa only [Operand.wf, decide_eq_true_eq, two_pow_bits, ← h] using hv
  all_goals rfl

theorem decodeOperand_wf {P : Params} {w : Width} {bs rest : List Byte} {o : Operand}
    (h : decodeOperand P w bs = .ok (o, rest)) : o.wf w = true := by
  cases bs with
  | nil => cases h
  | cons d bs =>
    simp only [decodeOperand] at h
    split at h
    · cases h
    · rename_i hl
      cases h
      exact operandOf_wf P w d (List.length_take_of_le (Nat.le_of_not_lt hl))

/-- Each operand fits the width. -/
def Operands.wf (w : Width) : Operands → Bool
  | .zero => true
  | .one a => a.wf w
  | .two a b => a.wf w && b.wf w

theorem decodeOperands_wf {P : Params} {w : Width} {n : Nat} {bs rest : List Byte} {operands : Operands}
    (h : decodeOperands P w n bs = .ok (operands, rest)) : operands.wf w = true := by
  match n with
  | 0 => cases h; rfl
  | 1 =>
    simp only [decodeOperands] at h
    split at h
    · cases h
    · rename_i ha
      cases h
      exact decodeOperand_wf ha
  | _ + 2 =>
    simp only [decodeOperands] at h
    split at h
    · cases h
    rename_i ha
    split at h
    · cases h
    rename_i hb
    cases h
    simp only [Operands.wf, decodeOperand_wf ha, decodeOperand_wf hb, Bool.and_self]

theorem unassignedMake_wf {op : BitVec 6} {make : Width → Operand → Operand → Instr}
    (h : unassignedMake op = some make) (w : Width) (a b : Operand) : (make w a b).wf = (a.wf w && b.wf w) := by
  have hall : ∀ make ∈ unassignedInstrs, (make w a b).wf = (a.wf w && b.wf w) := by
    simp [unassignedInstrs, Instr.wf]
  unfold unassignedMake at h
  split at h
  · exact hall make (List.mem_of_getElem? h)
  · cases h

/-- The instruction made of operands is as well formed as they are. -/
theorem makeInstr_wf {o : Option Operation} {op : BitVec 6} {mode : BitVec 2} {operands : Operands} {i : Instr}
    (h : makeInstr o op mode operands = some i) : i.wf = operands.wf (widthOf mode) := by
  cases operands with
  | zero =>
    rcases o with _ | (z | z | z) <;> cases h
    cases z <;> rfl
  | one a =>
    rcases o with _ | (z | z | z) <;> cases h
    cases z <;> rfl
  | two a b =>
    rcases o with _ | (z | z | z)
    · obtain ⟨make, hm, rfl⟩ := Option.map_eq_some_iff.mp h
      exact unassignedMake_wf hm _ a b
    · cases h
    · cases h
    · cases h
      cases z <;> rfl

/-- Everything a successful decoding can be: the operands of the number's band, and the instruction they make. -/
theorem decode_ok {P : Params} {bs rest : List Byte} {i : Instr} (h : decode P bs = .ok (i, rest)) :
    ∃ b tail operands, bs = b :: tail ∧ ¬ (1 ≤ arity P (opcodeField b) ∧ modeField b = 3) ∧
      decodeOperands P (widthOf (modeField b)) (arity P (opcodeField b)) tail = .ok (operands, rest) ∧
      makeInstr (P.operation (opcodeField b)) (opcodeField b) (modeField b) operands = some i := by
  cases bs with
  | nil => cases h
  | cons b tail =>
    simp only [decode] at h
    split at h
    · cases h
    rename_i hmode
    split at h
    · cases h
    rename_i operands after hops
    split at h
    · rename_i hi
      cases h
      exact ⟨b, tail, operands, rfl, hmode, hops, hi⟩
    · cases h

theorem decode_wf {P : Params} {bs rest : List Byte} {i : Instr} (h : decode P bs = .ok (i, rest)) :
    i.wf = true := by
  obtain ⟨b, tail, operands, -, -, hops, hi⟩ := decode_ok h
  rw [makeInstr_wf hi, decodeOperands_wf hops]

end Sys2Proof

namespace Sys2Proof.Machine

variable {P : Params} {s : State} {ip0 : Addr} {off : Nat} {w : Width} {o : Operand}

/-! ## What a step can be -/

theorem step_of_faulted {f : ModelFault} {pc : Addr} (h : s.faulted = some (f, pc)) :
    step s = .fault (.faulted f pc) := by
  simp only [step, h]

theorem step_of_stopped {e : HostEvent} (hf : s.faulted = none) (h : s.stopped = some e) :
    step s = .fault (.stopped e) := by
  simp only [step, hf, h]

theorem step_of_fetchInstr {i : Instr} (hf : s.faulted = none) (hs : s.stopped = none) (h : fetchInstr s = .ok i) :
    step s = exec i s := by
  simp only [step, hf, hs, h]

theorem stepWith_of_running (P : Params) (hf : s.faulted = none) (hs : s.stopped = none) :
    stepWith P s = cycleWith P s := by
  simp only [stepWith, hf, hs]

/-- The fetched window is the eleven bytes of the longest instruction (R80). -/
theorem fetchInstr_of_decode {i : Instr} {rest : List Byte}
    (h : decode params (s.mem.readBytes s.pc 11) = .ok (i, rest)) : fetchInstr s = .ok i := by
  have hw : decode params (fetchWindow s) = .ok (i, rest) := h
  simp only [fetchInstr, hw]

/-! ## Every cycle answers a next state -/

/-- An escape answers a next state without its hook and with each of the host's answers (R160, R161, R236, R255). -/
theorem answerEscape_answers (kind : HostKind) (code : Word) (s : State) (goOn : State → Except ModelFault State) :
    ∃ t, answerEscape kind code s goOn = .next t := by
  unfold answerEscape
  split
  · match s.nextAnswer with
    | .continue => exact settle_answers _
    | .stop => exact ⟨_, rfl⟩
    | .reenter => exact ⟨_, rfl⟩
  · exact ⟨_, rfl⟩

/-- The cycle of an opcode byte answers a next state under any parameters: a reserved mode and an operand that does not
resolve are recorded faults, and every operation, or none, ends in `settle` or in an escape. -/
theorem cycleOfByte_answers (P : Params) (op : BitVec 6) (mode : BitVec 2) (s : State) :
    ∃ t, cycleOfByte P op mode s = .next t := by
  unfold cycleOfByte
  split
  · exact ⟨_, rfl⟩
  · cases resolveSelected P s.fetched (widthOf mode) (arity P op) with
    | error f => exact ⟨_, rfl⟩
    | ok r =>
      cases escapeKind (P.operation op) with
      | some kind => exact answerEscape_answers kind _ s _
      | none => exact settle_answers _

theorem stepWith_answers (P : Params) (hf : s.faulted = none) (hs : s.stopped = none) :
    ∃ t, stepWith P s = .next t := by
  rw [stepWith_of_running P hf hs]
  exact cycleOfByte_answers P _ _ s

/-! ## Every resolved value fits the width -/

theorem byte_lt_two_pow_bits (w : Width) (b : Byte) : b.toNat < 2 ^ w.bits :=
  calc b.toNat < 2 ^ 8 := b.isLt
    _ ≤ 2 ^ w.bits := Nat.pow_le_pow_right (by decide) (by cases w <;> decide)

/-- A word read as `w` bytes is below `2^wbits`. -/
theorem ofNat_beValue_lt_two_pow_bits {bs : List Byte} (h : bs.length = w.bytes) :
    (BitVec.ofNat 32 (beValue bs) : Word).toNat < 2 ^ w.bits := by
  rw [two_pow_bits, ← h]
  exact toNat_ofNat_beValue_lt 32 bs

theorem memRead_lt {m : Memory} {a : Addr} {v : Word} (h : memRead P m a w.bytes = .ok v) :
    v.toNat < 2 ^ w.bits := by
  obtain ⟨-, rfl⟩ := memRead_ok h
  exact ofNat_beValue_lt_two_pow_bits (Memory.readBytes_length _ _ _)

theorem regRead_lt (s : State) (c : BitVec 5) (w : Width) : (s.regRead c w.bytes).toNat < 2 ^ w.bits :=
  ofNat_beValue_lt_two_pow_bits (regBytes_length _ _ _)

theorem specialValue_lt (w : Width) (x : Addr) : (specialValue w x).toNat < 2 ^ w.bits := by
  have hx : x.toNat < 2 ^ 16 := x.isLt
  cases w with
  | w8 => simp [specialValue, Width.bits, Width.bytes]; omega
  | w16 => simp [specialValue, Width.bits, Width.bytes]; omega
  | w32 => simp [specialValue, Width.bits, Width.bytes]; omega

theorem loadThrough_lt {r : Resolved} (h : loadThrough P s ip0 off w o = .ok r) : r.val.toNat < 2 ^ w.bits := by
  obtain ⟨-, rfl⟩ | ⟨ea, x, -, hx, rfl⟩ := loadThrough_ok h
  · exact Nat.two_pow_pos _
  · exact memRead_lt hx

/-- A resolved value is zero-extended from the width, form by form: a constant by its own encoding, everything else
because it is read as `w` bytes or narrower (R10, R100). -/
theorem resolve_lt {r : Resolved} (hw : o.wf w = true) (h : resolve P s ip0 off w o = .ok r) :
    r.val.toNat < 2 ^ w.bits := by
  cases o with
  | inline c =>
    cases h
    have hi := byte_lt_two_pow_bits w (inlineImm P (.inline c))
    rw [BitVec.toNat_setWidth]
    exact (Nat.mod_le _ _).trans_lt hi
  | literal c v =>
    simp only [resolve] at h
    split at h <;> cases h
    simpa [Operand.wf] using hw
  | reg c =>
    cases h
    exact regRead_lt s c w
  | special c =>
    simp only [resolve] at h
    split at h <;> cases h
    exact specialValue_lt w _
  | inlinePtr c =>
    rw [resolve] at h
    exact loadThrough_lt h
  | literalPtr c a =>
    rw [resolve] at h
    exact loadThrough_lt h
  | regPtr c =>
    rw [resolve] at h
    exact loadThrough_lt h
  | specialPtr c =>
    rw [resolve] at h
    exact loadThrough_lt h

end Sys2Proof.Machine

/-! ## The obligations -/

namespace Sys2Proof.Claims

open Sys2Proof.Machine

/-- Settles O9: the running case is proved for every parameter value, and the machine of Step.lean is the one at the
decided values. -/
theorem everyRunningStateTakesACycle : Obligations.EveryRunningStateTakesACycle := by
  refine ⟨fun s f pc h => step_of_faulted h, fun s e hf h => step_of_stopped hf h, fun s hf hs => ?_,
    fun P s hf hs => stepWith_answers P hf hs⟩
  rw [step_eq_stepWith]
  exact stepWith_answers params hf hs

/-- Settles O21, form by form. -/
theorem resolvedOperandFitsTheWidth : Obligations.ResolvedOperandFitsTheWidth :=
  fun _ _ _ _ _ _ hw h => resolve_lt hw h

/-- Settles O7: what decodes is well formed, and the fetch decodes the same eleven bytes. -/
theorem stepRunsTheDecodedInstruction : Obligations.StepRunsTheDecodedInstruction := by
  intro s i rest hf hs h
  have hstep : step s = exec i s := step_of_fetchInstr hf hs (fetchInstr_of_decode h)
  exact ⟨decode_wf h, hstep, step_eq_stepWith s ▸ hstep⟩

end Sys2Proof.Claims
end

section
/-! PROOF. The family 10_state: every step keeps the invariant (R30, R231, R255), a register write and its overlaps (R21
to R23), the skip latch (R30, R140, D12), the frame of the ALU instructions and XCHG (R170, R191), reset (R37, R250). -/

/-! ## Every instruction is the cycle of its operation -/

namespace Sys2Proof.Laws.OpcodeRow

/-- The rows of PerInstr.lean as one statement about every instruction. -/
theorem statement : ∀ i : Instr, Statement i
  | .nop m => nop m | .ret m => ret m
  | .jmp w a => jmp w a | .call w a => call w a | .push w a => push w a | .brk w a => brk w a | .int w a => int w a
  | .jz w a => jz w a | .snz w a => snz w a | .jnz w a => jnz w a | .sz w a => sz w a | .inc w a => inc w a
  | .dec w a => dec w a | .not w a => not w a | .neg w a => neg w a | .bswap w a => bswap w a | .pop w a => pop w a
  | .add w a b => add w a b | .sub w a b => sub w a b | .mul w a b => mul w a b | .div w a b => div w a b
  | .and w a b => and w a b | .nand w a b => nand w a b | .or w a b => or w a b | .nor w a b => nor w a b
  | .xor w a b => xor w a b | .bset w a b => bset w a b | .bclr w a b => bclr w a b | .shl w a b => shl w a b
  | .shr w a b => shr w a b | .rol w a b => rol w a b | .ror w a b => ror w a b | .xchg w a b => xchg w a b
  | .mov w a b => mov w a b | .je w a b => je w a b | .sne w a b => sne w a b | .jne w a b => jne w a b
  | .se w a b => se w a b | .jl w a b => jl w a b | .sge w a b => sge w a b | .jge w a b => jge w a b
  | .sl w a b => sl w a b | .jg w a b => jg w a b | .sle w a b => sle w a b | .jle w a b => jle w a b
  | .sg w a b => sg w a b | .jbs w a b => jbs w a b | .sbc w a b => sbc w a b | .jbc w a b => jbc w a b
  | .sbs w a b => sbs w a b
  | .unassigned50 w a b => unassigned50 w a b | .unassigned51 w a b => unassigned51 w a b
  | .unassigned52 w a b => unassigned52 w a b | .unassigned53 w a b => unassigned53 w a b
  | .unassigned54 w a b => unassigned54 w a b | .unassigned55 w a b => unassigned55 w a b
  | .unassigned56 w a b => unassigned56 w a b | .unassigned57 w a b => unassigned57 w a b
  | .unassigned58 w a b => unassigned58 w a b | .unassigned59 w a b => unassigned59 w a b
  | .unassigned60 w a b => unassigned60 w a b | .unassigned61 w a b => unassigned61 w a b
  | .unassigned62 w a b => unassigned62 w a b | .unassigned63 w a b => unassigned63 w a b

end Sys2Proof.Laws.OpcodeRow

namespace Sys2Proof.Machine

variable {P : Params} {s t u v : State} {o : Option Operation} {op : BitVec 6} {w : Width} {a b : Operand}

/-- What `exec` runs is the cycle of the instruction's own operation on its own operands. -/
theorem exec_eq_cycleDecoded (i : Instr) (s : State) :
    ∃ w operands, exec i s = cycleDecoded params i.operation i.opcode w s operands := by
  obtain ⟨-, ho, operands, hm, -, -⟩ := Laws.OpcodeRow.statement i
  rw [← ho] at hm ⊢
  exact ⟨_, operands, exec_makeInstr s hm⟩

/-! ## What dispatch can do -/

/-- The conditionals of arity 1 (R201 to R204). -/
def testOneOps : List OneOp := [.jz, .snz, .jnz, .sz]

/-- The conditionals of arity 2 (R205 to R220). -/
def testTwoOps : List TwoOp :=
  [.je, .sne, .jne, .se, .jl, .sge, .jge, .sl, .jg, .sle, .jle, .sg, .jbs, .sbc, .jbc, .sbs]

/-- The operations that may set `skip_next` (R200). -/
def isConditional (o : Option Operation) : Prop :=
  (∃ z ∈ testOneOps, o = some (.one z)) ∨ ∃ z ∈ testTwoOps, o = some (.two z)

/-- From `t` to `v` only PC, SP and memory moved, and memory kept its canonical form. -/
def MovesOnly (t v : State) : Prop :=
  ∃ pc sp m, (t.mem.wf = true → m.wf = true) ∧ v = ((t.setSp sp).setMem m).setPc pc

theorem MovesOnly.refl (t : State) : MovesOnly t t := ⟨t.pc, t.sp, t.mem, id, rfl⟩

theorem resultOnly_ok {r : Except ModelFault Word} {d : Dispatched} (h : resultOnly t r = .ok d) : d.st = t := by
  unfold resultOnly at h
  split at h <;> cases h
  rfl

theorem skipOnly_ok {c : Except ModelFault Bool} {d : Dispatched} (h : skipOnly t c = .ok d) :
    ∃ x, d.st = t.skipIf x := by
  unfold skipOnly at h
  split at h <;> cases h
  exact ⟨_, rfl⟩

theorem returnFrom_ok {d : Dispatched} (h : returnFrom P t = .ok d) : MovesOnly t d.st := by
  unfold returnFrom at h
  split at h <;> cases h
  exact ⟨_, t.sp + BitVec.ofNat 16 P.callFrameBytes, t.mem, id, rfl⟩

theorem popValue_ok {d : Dispatched} (h : popValue P t w = .ok d) : MovesOnly t d.st := by
  unfold popValue at h
  split at h <;> cases h
  exact ⟨t.pc, t.sp + BitVec.ofNat 16 w.bytes, t.mem, id, rfl⟩

theorem callTo_ok {n : Nat} {x : Word} {d : Dispatched} (h : callTo P t n x = .ok d) : MovesOnly t d.st := by
  unfold callTo at h
  split at h
  · cases h
  · rename_i m hm
    cases h
    exact ⟨_, t.sp - BitVec.ofNat 16 P.callFrameBytes, m, memWrite_wf hm, rfl⟩

theorem pushValue_ok {x : Word} {d : Dispatched} (h : pushValue P t w x = .ok d) : MovesOnly t d.st := by
  unfold pushValue at h
  split at h
  · cases h
  · rename_i m hm
    cases h
    exact ⟨t.pc, t.sp - BitVec.ofNat 16 w.bytes, m, memWrite_wf hm, rfl⟩

/-- Everything dispatch can do to the state (R135): a conditional may set `skip_next`, every other operation moves PC,
SP and memory at most. -/
theorem dispatch_ok {n : Nat} {x y : Word} {d : Dispatched} (h : dispatch P o w n t x y = .ok d) :
    (isConditional o ∧ ∃ c, d.st = t.skipIf c) ∨ MovesOnly t d.st := by
  have result : ∀ {r : Except ModelFault Word}, resultOnly t r = .ok d → MovesOnly t d.st :=
    fun hr => resultOnly_ok hr ▸ MovesOnly.refl t
  match o with
  | none => cases h; exact .inr (.refl t)
  | some (.zero .nop) => cases h; exact .inr (.refl t)
  | some (.zero .ret) => exact .inr (returnFrom_ok h)
  | some (.one z) =>
    cases z <;> simp only [dispatch, dispatchOne] at h
    case jmp => cases h; exact .inr ⟨_, t.sp, t.mem, id, rfl⟩
    case call => exact .inr (callTo_ok h)
    case push => exact .inr (pushValue_ok h)
    case pop => exact .inr (popValue_ok h)
    case brk | int => cases h; exact .inr (.refl t)
    case inc | dec | not | neg | bswap => exact .inr (result h)
    case jz | snz | jnz | sz => exact .inl ⟨.inl ⟨_, by simp [testOneOps], rfl⟩, skipOnly_ok h⟩
  | some (.two z) =>
    cases z <;> simp only [dispatch, dispatchTwo] at h
    case xchg => cases h; exact .inr (.refl t)
    case add | sub | mul | div | and | nand | or | nor | xor | bset | bclr | shl | shr | rol | ror | mov =>
      exact .inr (result h)
    case je | sne | jne | se | jl | sge | jge | sl | jg | sle | jle | sg | jbs | sbc | jbc | sbs =>
      exact .inl ⟨.inr ⟨_, by simp [testTwoOps], rfl⟩, skipOnly_ok h⟩

/-! ## What commits can do -/

/-- `t` is `s` after no commit, one, or more. -/
def Commits (P : Params) : State → State → Prop :=
  Relation.ReflTransGen fun s t => ∃ ip0 off w x o, commitTo P s ip0 off w x o = .ok t

theorem Commits.single {ip0 : Addr} {off : Nat} {x : Word} (h : commitTo P s ip0 off w x a = .ok t) : Commits P s t :=
  Relation.ReflTransGen.single ⟨ip0, off, w, x, a, h⟩

theorem Commits.rest (h : Commits P s t) :
    t.skipNext = s.skipNext ∧ t.hookBrk = s.hookBrk ∧ t.hookInt = s.hookInt ∧ t.faulted = s.faulted ∧
      t.stopped = s.stopped ∧ t.events = s.events ∧ t.hostAnswers = s.hostAnswers := by
  induction h with
  | refl => simp
  | tail _ hc ih =>
    obtain ⟨ip0, off, w, x, o, hc⟩ := hc
    obtain ⟨hn, -, hb, hi, hf, hs, he, ha⟩ := commitTo_rest hc
    simpa only [hn, hb, hi, hf, hs, he, ha] using ih

theorem Commits.wf (h : Commits P s t) (hw : s.mem.wf = true) : t.mem.wf = true := by
  induction h with
  | refl => exact hw
  | tail _ hc ih =>
    obtain ⟨ip0, off, w, x, o, hc⟩ := hc
    exact commitTo_wf hc ih

theorem writeback_commits_at_most {ip0 : Addr} {sup : Bool} {d : Dispatched} {p : Bool}
    (h : writeback P op ip0 w a sup d = .ok (u, p)) :
    u = d.st ∨ commitTo P d.st ip0 0 w d.result a = .ok u := by
  obtain ⟨-, hu, -⟩ | ⟨-, -, hc, -⟩ := writeback_ok h
  · exact .inl hu
  · exact .inr hc

theorem commits_of_writeback {ip0 : Addr} {sup : Bool} {d : Dispatched} {p : Bool}
    (h : writeback P op ip0 w a sup d = .ok (u, p)) : Commits P d.st u := by
  obtain rfl | hc := writeback_commits_at_most h
  · exact .refl
  · exact .single hc

theorem commits_of_exchange {ip0 : Addr} {n : Nat} {x y : Word} {sup p : Bool}
    (h : exchange P op ip0 w a n x y sup s = .ok (u, p)) : Commits P s u := by
  obtain ⟨-, rfl, -⟩ | ⟨v, -, -, hv, hu⟩ := exchange_ok h
  · exact .refl
  · exact (Commits.single hv).trans (Commits.single hu)

/-! ## What a cycle can end in -/

/-- The states a cycle of the operation `o` from `s` can end in. -/
inductive CycleEnd (P : Params) (o : Option Operation) (s : State) : State → Prop where
  /-- a model fault before any event (R231) -/
  | faulted (f : ModelFault) : CycleEnd P o s (s.raise f)
  /-- the host started a cycle from inside its callback (R236) -/
  | reentered {kind : HostKind} (hk : escapeKind o = some kind) (code : Word) :
      CycleEnd P o s ((s.emit ⟨kind, code, s.pc⟩).raise .reentrantCycle)
  /-- the host stopped the run (R255) -/
  | stopped {kind : HostKind} (hk : escapeKind o = some kind) (code : Word) :
      CycleEnd P o s ((s.fetched.emit ⟨kind, code, s.pc⟩).setStopped (some ⟨kind, code, s.pc⟩))
  /-- the host let the cycle go on (R160) -/
  | continued {kind : HostKind} (hk : escapeKind o = some kind) (code : Word) (n : Nat) :
      CycleEnd P o s (finish P n false (s.fetched.emit ⟨kind, code, s.pc⟩))
  /-- dispatch, the commits and step 6 (R135 to R140) -/
  | completed {w : Width} {k n : Nat} {x y : Word} {d : Dispatched} {u : State} (p : Bool)
      (hd : dispatch P o w k s.fetched x y = .ok d) (hu : Commits P d.st u) : CycleEnd P o s (finish P n p u)

theorem hostEscape_cycleEnd {kind : HostKind} (hk : escapeKind o = some kind) (h : hostEscape P kind w a s = .next t) :
    CycleEnd P o s t := by
  obtain ⟨f, rfl⟩ | ⟨ra, -, -, ⟨-, rfl⟩ | ⟨-, rfl⟩ | ⟨-, rfl⟩⟩ := hostEscape_next h
  · exact .faulted f
  · exact .continued hk _ _
  · exact .stopped hk _
  · exact .reentered hk _

theorem cycleDecoded_cycleEnd {operands : Operands} (h : cycleDecoded P o op w s operands = .next t) :
    CycleEnd P o s t := by
  cases operands with
  | zero =>
    simp only [cycleDecoded] at h
    obtain ⟨f, rfl⟩ | ⟨d, hd, rfl⟩ := cycleZero_next h
    · exact .faulted f
    · exact .completed _ hd .refl
  | one a =>
    simp only [cycleDecoded] at h
    split at h
    · rename_i kind hk
      exact hostEscape_cycleEnd hk h
    · obtain ⟨f, rfl⟩ | ⟨ra, d, u, p, -, hd, hu, rfl⟩ := cycleOne_next h
      · exact .faulted f
      · exact .completed _ hd (commits_of_writeback hu)
  | two a b =>
    simp only [cycleDecoded] at h
    split at h
    · rename_i ho
      obtain ⟨f, rfl⟩ | ⟨ra, rb, u, p, -, hu, rfl⟩ := cycleExchange_next h
      · exact .faulted f
      · subst ho
        have hd : dispatch P (some (.two .xchg)) w 0 s.fetched 0 0 = .ok ⟨s.fetched, 0, false⟩ := rfl
        exact .completed _ hd (commits_of_exchange hu)
    · obtain ⟨f, rfl⟩ | ⟨ra, rb, d, u, p, -, hd, hu, rfl⟩ := cycleTwo_next h
      · exact .faulted f
      · exact .completed _ hd (commits_of_writeback hu)

/-- Everything an instruction can end in. -/
theorem exec_cycleEnd {i : Instr} (h : exec i s = .next t) : CycleEnd params i.operation s t := by
  obtain ⟨w, operands, he⟩ := exec_eq_cycleDecoded i s
  exact cycleDecoded_cycleEnd (he ▸ h)

/-- Everything a step that answers a next state can be: from a running state, a reserved bits-mode (R72) or the
instruction at PC. -/
theorem step_next (h : step s = .next t) :
    s.faulted = none ∧ s.stopped = none ∧
      ((∃ opc, t = s.raise (.reservedBitsMode opc)) ∨ ∃ i, fetchInstr s = .ok i ∧ exec i s = .next t) := by
  unfold step at h
  split at h
  · cases h
  rename_i hf
  split at h
  · cases h
  rename_i hs
  refine ⟨hf, hs, ?_⟩
  split at h
  · rename_i i hi
    exact .inr ⟨i, hi, h⟩
  · unfold undecoded at h
    split at h <;> cases h
    exact .inl ⟨_, rfl⟩

/-! ## The invariant -/

theorem State.inv_iff :
    s.Inv = true ↔
      s.mem.wf = true ∧ s.skipNext = false ∧ s.faultPrecise = true ∧ s.stopPrecise = true := by
  simp only [State.Inv, Bool.and_eq_true, Bool.not_eq_true', and_assoc]

/-- A state that has neither faulted nor been stopped has nothing to be precise about. -/
theorem State.inv_of_running (hm : s.mem.wf = true) (hn : s.skipNext = false) (hf : s.faulted = none)
    (hs : s.stopped = none) : s.Inv = true :=
  State.inv_iff.mpr ⟨hm, hn, by simp [State.faultPrecise, hf], by simp [State.stopPrecise, hs]⟩

theorem State.raise_inv (f : ModelFault) (hm : s.mem.wf = true) (hn : s.skipNext = false) (hs : s.stopped = none) :
    (s.raise f).Inv = true :=
  State.inv_iff.mpr ⟨hm, hn, by simp [State.faultPrecise], by simp [State.stopPrecise, hs]⟩

theorem State.setStopped_inv {e : HostEvent} (hm : s.mem.wf = true) (hn : s.skipNext = false) (hf : s.faulted = none)
    (hpc : s.pc = e.pcAtFetch + 1) (he : s.events.getLast? = some e) : (s.setStopped (some e)).Inv = true :=
  State.inv_iff.mpr ⟨hm, hn, by simp [State.faultPrecise, hf], by simp [State.stopPrecise, hpc, he]⟩

theorem finish_inv (n : Nat) (p : Bool) (hm : u.mem.wf = true) (hf : u.faulted = none) (hs : u.stopped = none) :
    (finish P n p u).Inv = true :=
  State.inv_of_running (by simpa using hm) (by simp) (by simpa using hf) (by simpa using hs)

/-- Dispatch keeps the canonical form of memory, and neither faults nor stops by itself. -/
theorem dispatch_keeps {k : Nat} {x y : Word} {d : Dispatched} (h : dispatch P o w k t x y = .ok d) :
    (t.mem.wf = true → d.st.mem.wf = true) ∧ d.st.faulted = t.faulted ∧ d.st.stopped = t.stopped := by
  obtain ⟨-, c, hst⟩ | ⟨pc, sp, m, hm, hst⟩ := dispatch_ok h
  · simp [hst]
  · simpa [hst] using hm

/-- A cycle from a running state that has the invariant ends in a state that has it. -/
theorem CycleEnd.inv (h : CycleEnd P o s t) (hm : s.mem.wf = true) (hn : s.skipNext = false) (hf : s.faulted = none)
    (hs : s.stopped = none) : t.Inv = true := by
  cases h with
  | faulted f => exact State.raise_inv f hm hn hs
  | reentered hk code => exact State.raise_inv _ hm hn hs
  | stopped hk code => exact State.setStopped_inv hm hn hf (by simp) (by simp)
  | continued hk code n => exact finish_inv _ _ hm hf hs
  | completed p hd hu =>
    obtain ⟨hdm, hdf, hds⟩ := dispatch_keeps hd
    obtain ⟨-, -, -, huf, hus, -, -⟩ := hu.rest
    exact finish_inv _ _ (hu.wf (hdm hm)) (huf.trans (hdf.trans hf)) (hus.trans (hds.trans hs))

end Sys2Proof.Machine

/-! ## The skip latch -/

namespace Sys2Proof.Claims

open Sys2Proof.Machine

variable {s t u : State}

theorem testOneMakers_eq : testOneMakers = testOneOps.map OneOp.make := rfl
theorem testTwoMakers_eq : testTwoMakers = testTwoOps.map TwoOp.make := rfl

/-- An instruction whose operation is a conditional is made by one of the conditional constructors. -/
theorem made_of_isConditional {i : Instr} (h : isConditional i.operation) :
    (∃ make ∈ testOneMakers, ∃ w a, i = make w a) ∨ ∃ make ∈ testTwoMakers, ∃ w a b, i = make w a b := by
  obtain ⟨-, -, operands, hm, -, -⟩ := Laws.OpcodeRow.statement i
  obtain ⟨z, hz, ho⟩ | ⟨z, hz, ho⟩ := h
  · rw [ho] at hm
    cases operands with
    | zero => cases hm
    | one a => exact .inl ⟨z.make, testOneMakers_eq ▸ List.mem_map_of_mem hz, _, a, (Option.some.inj hm).symm⟩
    | two a b => cases hm
  · rw [ho] at hm
    cases operands with
    | zero => cases hm
    | one a => cases hm
    | two a b =>
      exact .inr ⟨z.make, testTwoMakers_eq ▸ List.mem_map_of_mem hz, _, a, b, (Option.some.inj hm).symm⟩

/-- A completed cycle clears `skip_next`, and arms the latch only in a conditional. -/
theorem completed_skips {P : Params} {o : Option Operation} (h : CycleEnd P o s t) (hn : s.skipNext = false)
    (hf : t.faulted = none) (hs : t.stopped = none) :
    t.skipNext = false ∧ (t.skipActive = true → isConditional o) := by
  cases h with
  | faulted f => cases hf
  | reentered hk code => cases hf
  | stopped hk code => cases hs
  | continued hk code n => simp [hn]
  | completed p hd hu =>
    obtain ⟨hun, -⟩ := hu.rest
    refine ⟨finish_skipNext _ _ _, fun hx => ?_⟩
    obtain ⟨hc, -⟩ | ⟨pc, sp, m, -, hst⟩ := dispatch_ok hd
    · exact hc
    · simp [hun, hst, hn] at hx

/-! ## Frames -/

theorem commitTo_mem_frame {ip0 : Addr} {off : Nat} {w : Width} {x : Word} {o : Operand}
    (h : commitTo params s ip0 off w x o = .ok t) {c : Addr}
    (hc : ∀ ea, pointerAddr params s ip0 off o = .ok (some ea) → outside ea w.bytes c) :
    t.mem.read c = s.mem.read c := by
  obtain ⟨-, rfl⟩ | ⟨r, -, rfl⟩ | ⟨k, -, -, rfl⟩ | ⟨ea, m, hea, hm, rfl⟩ := commitTo_ok h
  · rfl
  · rfl
  · rw [State.specialWrite_mem]
  · exact memWrite_frame hm (hc ea hea)

theorem commitTo_reg_frame {ip0 : Addr} {off : Nat} {w : Width} {x : Word} {o : Operand}
    (h : commitTo params s ip0 off w x o = .ok t) {j : Nat}
    (hj : ∀ r, o = .reg r → j < r.toNat ∨ r.toNat + w.bytes ≤ j) : regByte t.regs j = regByte s.regs j := by
  obtain ⟨-, rfl⟩ | ⟨r, hr, rfl⟩ | ⟨k, -, -, rfl⟩ | ⟨ea, m, -, -, rfl⟩ := commitTo_ok h
  · rfl
  · exact State.regWrite_frame _ _ _ _ _ (hj r hr)
  · rw [State.specialWrite_regs]
  · rfl

theorem commitTo_sp_frame {ip0 : Addr} {off : Nat} {w : Width} {x : Word} {o : Operand}
    (h : commitTo params s ip0 off w x o = .ok t) (ho : o ≠ .special 1) : t.sp = s.sp := by
  obtain ⟨-, rfl⟩ | ⟨r, -, rfl⟩ | ⟨k, hk, hlt, rfl⟩ | ⟨ea, m, -, -, rfl⟩ := commitTo_ok h
  · rfl
  · rfl
  · have hk0 : k = 0 := by
      have hne : k ≠ 1 := fun e => ho (e ▸ hk)
      bv_omega
    rw [hk0, State.specialWrite_zero, State.setPc_sp]
  · rfl

theorem commitTo_destinationFrame {ip0 : Addr} {off : Nat} {w : Width} {x : Word} {o : Operand}
    (h : commitTo params s ip0 off w x o = .ok t) : destinationFrame s t ip0 off w o := by
  refine ⟨fun ea hea c hc => commitTo_mem_frame h fun ea' hea' => ?_,
    fun hn c => commitTo_mem_frame h fun ea hea => ?_, fun j hj => commitTo_reg_frame h hj,
    fun ho => commitTo_sp_frame h ho⟩
  · cases hea.symm.trans hea'
    exact hc
  · cases hn.symm.trans hea

/-- The frame speaks of memory, registers and SP only. -/
theorem destinationFrame_congr {ip0 : Addr} {off : Nat} {w : Width} {o : Operand}
    (h : destinationFrame s u ip0 off w o) (hm : t.mem = u.mem) (hr : t.regs = u.regs) (hs : t.sp = u.sp) :
    destinationFrame s t ip0 off w o := by
  unfold destinationFrame
  rw [hm, hr, hs]
  exact h

theorem destinationFrame_refl (s : State) (ip0 : Addr) (off : Nat) (w : Width) (o : Operand) :
    destinationFrame s s ip0 off w o :=
  ⟨fun _ _ _ _ => rfl, fun _ _ => rfl, fun _ _ => rfl, fun _ => rfl⟩

theorem raise_hostSideKept (s : State) (f : ModelFault) : hostSideKept s (s.raise f) := ⟨rfl, rfl, rfl, rfl, rfl⟩

theorem raise_skipsLatched (s : State) (f : ModelFault) : skipsLatched s (s.raise f) := by
  intro hf hn
  rw [hn] at hf
  cases hf

/-- A cycle that only commits leaves the host's side alone. -/
theorem finish_hostSideKept {P : Params} (n : Nat) (p : Bool) (h : Commits P s.fetched u) :
    hostSideKept s (finish P n p u) := by
  obtain ⟨-, hb, hi, -, hs, he, ha⟩ := h.rest
  simp [hostSideKept, hb, hi, hs, he, ha]

/-- A cycle that only commits moves `skip_next` into the latch (R140). -/
theorem finish_skipsLatched {P : Params} (n : Nat) (p : Bool) (h : Commits P s.fetched u) :
    skipsLatched s (finish P n p u) := by
  obtain ⟨hn, -⟩ := h.rest
  simp [skipsLatched, hn]

/-- What an ALU instruction with destination `a` leaves alone. -/
def aluFrame (w : Width) (a : Operand) (s t : State) : Prop :=
  destinationFrame (atIp0 s) t (s.pc + 1) 0 w a ∧ hostSideKept s t ∧ skipsLatched s t

theorem raise_aluFrame (w : Width) (a : Operand) (s : State) (f : ModelFault) : aluFrame w a s (s.raise f) :=
  ⟨destinationFrame_congr (destinationFrame_refl (atIp0 s) _ _ _ _) rfl rfl rfl, raise_hostSideKept s f,
    raise_skipsLatched s f⟩

/-- Step 5 and 6 of an ALU instruction, whose dispatch leaves the state alone. -/
theorem finish_aluFrame {op : BitVec 6} {w : Width} {a : Operand} {d : Dispatched} {p : Bool} (n : Nat)
    (hd : d.st = s.fetched) (hu : writeback params op s.fetched.pc w a s.skipActive d = .ok (u, p)) :
    aluFrame w a s (finish params n p u) := by
  have hC : Commits params s.fetched u := hd ▸ commits_of_writeback hu
  have hframe : destinationFrame (atIp0 s) u (s.pc + 1) 0 w a := by
    obtain rfl | hc := writeback_commits_at_most hu
    · rw [hd]
      exact destinationFrame_refl _ _ _ _ _
    · rw [hd] at hc
      exact commitTo_destinationFrame hc
  exact ⟨destinationFrame_congr hframe (finish_mem ..) (finish_regs ..) (finish_sp ..), finish_hostSideKept _ _ hC,
    finish_skipsLatched _ _ hC⟩

theorem aluOne_frame {op : BitVec 6} {w : Width} {a : Operand} {f : Word → Word} (h : aluOne op w a s f = .next t) :
    aluFrame w a s t := by
  obtain ⟨f, rfl⟩ | ⟨ra, d, u, p, -, hd, hu, rfl⟩ := cycleOne_next h
  · exact raise_aluFrame w a s f
  · exact finish_aluFrame _ (resultOnly_ok hd) hu

theorem aluTwo_frame {op : BitVec 6} {w : Width} {a b : Operand} {f : Word → Word → Except ModelFault Word}
    (h : aluTwo op w a b s f = .next t) : aluFrame w a s t := by
  obtain ⟨f, rfl⟩ | ⟨ra, rb, d, u, p, -, hd, hu, rfl⟩ := cycleTwo_next h
  · exact raise_aluFrame w a s f
  · exact finish_aluFrame _ (resultOnly_ok hd) hu

theorem exec_aluOneMakers {make : Width → Operand → Instr} (h : make ∈ aluOneMakers) (w : Width) (a : Operand)
    (s : State) : ∃ op f, exec (make w a) s = aluOne op w a s f := by
  simp only [aluOneMakers, List.mem_cons, List.not_mem_nil, or_false] at h
  rcases h with rfl | rfl | rfl | rfl | rfl <;> exact ⟨_, _, rfl⟩

theorem exec_aluTwoMakers {make : Width → Operand → Operand → Instr} (h : make ∈ aluTwoMakers) (w : Width)
    (a b : Operand) (s : State) : ∃ op f, exec (make w a b) s = aluTwo op w a b s f := by
  simp only [aluTwoMakers, aluRangedMakers, aluTotalMakers, List.cons_append, List.nil_append, List.mem_cons,
    List.not_mem_nil, or_false] at h
  rcases h with rfl | rfl | rfl | rfl | rfl | rfl | rfl | rfl | rfl | rfl | rfl | rfl | rfl | rfl | rfl | rfl <;>
    simp only [exec] <;> exact ⟨_, _, rfl⟩

end Sys2Proof.Claims

/-! ## Registers -/

namespace Sys2Proof

theorem two_pow_eight_mul (n : Nat) : 2 ^ (8 * n) = 256 ^ n := by
  rw [pow_mul]
  rfl

theorem beBytes_getElem (n v i : Nat) (h : i < (beBytes n v).length) :
    (beBytes n v)[i] = BitVec.ofNat 8 (v / 256 ^ (n - 1 - i)) := by
  induction n generalizing i with
  | zero => simp at h
  | succ n ih =>
    cases i with
    | zero => rfl
    | succ i =>
      have hn : n + 1 - 1 - (i + 1) = n - 1 - i := by omega
      simp only [beBytes, List.getElem_cons_succ, ih, hn]

end Sys2Proof

namespace Sys2Proof.Machine

/-- Each stored byte lies at its own place in the register file. -/
theorem regByte_regStore (r : Vector Byte 35) (i : Nat) (bs : List Byte) (h : i + bs.length ≤ 35) (k : Nat)
    (hk : k < bs.length) : regByte (regStore r i bs) (i + k) = bs[k] := by
  induction bs generalizing r i k with
  | nil => cases hk
  | cons b bs ih =>
    simp only [List.length_cons] at h hk
    rw [regStore]
    cases k with
    | zero =>
      rw [regByte_regStore_other _ _ _ _ (by omega), regByte_set _ _ _ _ (by omega), if_pos (by omega)]
      rfl
    | succ k =>
      rw [show i + (k + 1) = i + 1 + k by omega, ih _ _ (by omega) _ (by omega)]
      rfl

/-- Byte `i` of a register write is byte `n - 1 - i` of the value: the file is big-endian (R22). -/
theorem regByte_regWrite (s : State) (c : BitVec 5) (n : Nat) (v : Word) (hn : n ≤ 4) (i : Nat) (hi : i < n) :
    (regByte (s.regWrite c n v).regs (c.toNat + i)).toNat = v.toNat / 2 ^ (8 * (n - 1 - i)) % 2 ^ 8 := by
  have hc := c.isLt
  rw [State.regWrite_regs, regByte_regStore _ _ _ (by simp; omega) i (by simpa using hi), beBytes_getElem,
    BitVec.toNat_ofNat, two_pow_eight_mul]

theorem State.regRead_one (s : State) (c : BitVec 5) :
    s.regRead c 1 = BitVec.ofNat 32 (regByte s.regs c.toNat).toNat := by
  simp [State.regRead, regBytes, beValue_cons]

theorem regByte_reset (i : Nat) : regByte State.reset.regs i = 0 := by
  have hr : State.reset.regs = Vector.replicate 35 0 := rfl
  rw [hr, regByte, Vector.getElem?_replicate]
  split <;> rfl

end Sys2Proof.Machine

/-! ## The obligations -/

namespace Sys2Proof.Claims

open Sys2Proof.Machine

/-- Settles O55: everything a cycle can end in has the invariant, and so has a reserved bits-mode's fault. -/
theorem stepKeepsTheInvariant : Obligations.StepKeepsTheInvariant := by
  intro s t hi h
  obtain ⟨hm, hn, -, -⟩ := State.inv_iff.mp hi
  obtain ⟨hf, hs, ⟨op, rfl⟩ | ⟨i, -, he⟩⟩ := step_next h
  · exact State.raise_inv _ hm hn hs
  · exact (exec_cycleEnd he).inv hm hn hf hs

/-- Settles O12. The overlap is the write's own second byte, read as a register of one byte. -/
theorem registerWriteReadsBackAndOverlaps : Obligations.RegisterWriteReadsBackAndOverlaps := by
  intro s r n v hn
  have hn4 : n ≤ 4 := by omega
  refine ⟨regByte_regWrite s r n v hn4, ?_, State.regWrite_frame s r n v, fun q hq => ?_⟩
  · rw [State.regRead_regWrite s r n v hn4, two_pow_eight_mul]
  · rw [State.regRead_one, hq, regByte_regWrite s r 2 v (by decide) 1 (by decide)]
    simp

/-- Settles O47, from what a completed cycle does to the skip flags. -/
theorem onlyAConditionalArmsTheSkip : Obligations.OnlyAConditionalArmsTheSkip := by
  intro i s t hn h hf hs
  obtain ⟨hnext, harm⟩ := completed_skips (exec_cycleEnd h) hn hf hs
  exact ⟨hnext, fun hx => made_of_isConditional (harm hx)⟩

/-- The host's side and the skip flags of XCHG. -/
theorem exchange_host_and_skips {w : Width} {a b : Operand} {s t : State} (h : exec (.xchg w a b) s = .next t) :
    hostSideKept s t ∧ skipsLatched s t := by
  obtain ⟨f, rfl⟩ | ⟨ra, rb, u, p, -, hu, rfl⟩ := cycleExchange_next h
  · exact ⟨raise_hostSideKept s f, raise_skipsLatched s f⟩
  · exact ⟨finish_hostSideKept _ _ (commits_of_exchange hu), finish_skipsLatched _ _ (commits_of_exchange hu)⟩

/-- What XCHG does to memory, registers and SP: nothing, or its two commits, the second from the state `u` after the
first (R137). -/
theorem exchange_cases {w : Width} {a b : Operand} {s t u : State} {ra rb : Resolved}
    (h : exec (.xchg w a b) s = .next t) (ha : readsA s w a ra) (hb : readsB s w ra b rb)
    (hu : commitTo params (atIp0 s) (s.pc + 1) 0 w rb.val a = .ok u) :
    (t.mem = s.mem ∧ t.regs = s.regs ∧ t.sp = s.sp) ∨
    ∃ v, commitTo params u (s.pc + 1) ra.len w ra.val
        (operandAt params u.mem (s.pc + 1 + BitVec.ofNat 16 ra.len) w) = .ok v ∧
      t.mem = v.mem ∧ t.regs = v.regs ∧ t.sp = v.sp := by
  obtain ⟨f, rfl⟩ | ⟨ra', rb', v, p, hr, hv, rfl⟩ := cycleExchange_next h
  · exact .inl ⟨rfl, rfl, rfl⟩
  cases hr.symm.trans (resolveTwo_of ha hb)
  obtain ⟨-, rfl, -⟩ | ⟨u', -, -, hu', hc⟩ := exchange_ok hv
  · exact .inl ⟨by simp, by simp, by simp⟩
  · cases hu'.symm.trans hu
    exact .inr ⟨v, hc, by simp, by simp, by simp⟩

/-- Settles O51: one commit at most for the ALU instructions, and XCHG's frame is that of its two commits, one after the
other. -/
theorem aluAndExchangeFrame : Obligations.AluAndExchangeFrame := by
  refine ⟨fun make hmake w a s t h => ?_, fun make hmake w a b s t h => ?_, fun w a b s t h => ?_⟩
  · obtain ⟨op, f, he⟩ := exec_aluOneMakers hmake w a s
    exact aluOne_frame (he ▸ h)
  · obtain ⟨op, f, he⟩ := exec_aluTwoMakers hmake w a b s
    exact aluTwo_frame (he ▸ h)
  · obtain ⟨hhost, hskips⟩ := exchange_host_and_skips h
    refine ⟨hhost, hskips, fun ra rb u c ha hb hu hc => ?_⟩
    subst hc
    obtain ⟨hm, hr, hs⟩ | ⟨v, hv, hm, hr, hs⟩ := exchange_cases h ha hb hu
    · exact ⟨fun x _ _ => by rw [hm], fun j _ => by rw [hr], fun _ _ => hs⟩
    · refine ⟨fun x hxa hxb => ?_, fun j hj => ?_, fun hna hnc => ?_⟩
      · rw [hm, commitTo_mem_frame hv hxb, commitTo_mem_frame hu hxa]
        rfl
      · rw [hr, commitTo_reg_frame hv fun r e => hj r (.inr e), commitTo_reg_frame hu fun r e => hj r (.inl e)]
        rfl
      · rw [hs, commitTo_sp_frame hv hnc, commitTo_sp_frame hu hna]
        rfl

/-- Settles O56: memory is empty and the machine has neither faulted nor been stopped. -/
theorem resetHasTheInvariant : Obligations.ResetHasTheInvariant :=
  ⟨State.inv_of_running State.reset_mem_wf rfl rfl rfl, rfl⟩

/-- Settles O57: `init` leaves every field of the claim at its value in `State.reset`. -/
theorem resetValues : Obligations.ResetValues := by
  rintro s t (rfl | rfl) <;>
    exact ⟨regByte_reset, fun _ => rfl, rfl, rfl, rfl, rfl, rfl, rfl, rfl⟩

end Sys2Proof.Claims
end

section
/-! PROOF. The family 20_memory: an instruction that lies encoded at PC is the one the step runs (R53, R70, R132), MemRead
and MemWrite are big-endian (R51, R52), and an access past 0xFFFF faults or wraps (R54, D11). -/

/-! ## Decoding an encoded instruction -/

namespace Sys2Proof

variable {P : Params} {w : Width} {o : Option Operation} {op : BitVec 6} {mode : BitVec 2} {operands : Operands} {i : Instr}

/-- Operands decode from their own bytes, A before B (R70). -/
theorem decodeOperands_bytes (P : Params) (w : Width) (operands : Operands) (rest : List Byte)
    (h : operands.wf w = true) :
    decodeOperands P w operands.count (operands.bytes P w ++ rest) = .ok (operands, rest) := by
  cases operands with
  | zero => rfl
  | one a =>
    have ha : a.wf w = true := h
    simp only [Operands.count, Operands.bytes, decodeOperands, decodeOperand_encodeOperand P w a _ ha]
  | two a b =>
    obtain ⟨ha, hb⟩ : a.wf w = true ∧ b.wf w = true := by simpa only [Operands.wf, Bool.and_eq_true] using h
    simp only [Operands.count, Operands.bytes, decodeOperands, List.append_assoc,
      decodeOperand_encodeOperand P w a _ ha, decodeOperand_encodeOperand P w b _ hb]

theorem Operands.bytes_length_le (P : Params) (w : Width) (operands : Operands) :
    (operands.bytes P w).length ≤ 10 := by
  cases operands with
  | zero => exact Nat.zero_le _
  | one a =>
    have ha := Machine.operandLen_le w a
    simp only [Operands.bytes, encodeOperand_length]
    omega
  | two a b =>
    have ha := Machine.operandLen_le w a
    have hb := Machine.operandLen_le w b
    simp only [Operands.bytes, List.length_append, encodeOperand_length]
    omega

theorem unassignedMake_mode {make : Width → Operand → Operand → Instr} (h : unassignedMake op = some make) (w : Width)
    (a b : Operand) : (make w a b).mode = w.mode := by
  have hall : ∀ make ∈ unassignedInstrs, (make w a b).mode = w.mode := by
    simp [unassignedInstrs, Instr.mode]
  unfold unassignedMake at h
  split at h
  · exact hall make (List.mem_of_getElem? h)
  · cases h

/-- An instruction with an operand has the mode of a width (R72). -/
theorem makeInstr_mode (h : makeInstr o op mode operands = some i) (hc : 1 ≤ operands.count) :
    i.mode = (widthOf mode).mode := by
  cases operands with
  | zero => cases hc
  | one a =>
    rcases o with _ | (z | z | z) <;> cases h
    cases z <;> rfl
  | two a b =>
    rcases o with _ | (z | z | z)
    · obtain ⟨make, hm, rfl⟩ := Option.map_eq_some_iff.mp h
      exact unassignedMake_mode hm _ a b
    · cases h
    · cases h
    · cases h
      cases z <;> rfl

/-- Every encoding is the opcode byte and the bytes of the operands that the instruction is made of (R70, R85). -/
theorem encode_eq (i : Instr) : ∃ operands : Operands,
    encode params i = opcodeByte i.opcode i.mode :: operands.bytes params (widthOf i.mode) ∧
    operands.count = arity params i.opcode ∧
    makeInstr (params.operation i.opcode) i.opcode i.mode operands = some i := by
  obtain ⟨hop, ho, operands, hm, hn, hb⟩ := Laws.OpcodeRow.statement i
  exact ⟨operands, by rw [encode, hop, hb], hn, ho ▸ hm⟩

/-- The decoder inverts the encoder on well-formed instructions, whatever bytes follow (R70). -/
theorem decode_encode (i : Instr) (rest : List Byte) (hw : i.wf = true) :
    decode params (encode params i ++ rest) = .ok (i, rest) := by
  obtain ⟨operands, he, hn, hm⟩ := encode_eq i
  have hops := decodeOperands_bytes params (widthOf i.mode) operands rest (makeInstr_wf hm ▸ hw)
  rw [hn] at hops
  have hmode : ¬ (1 ≤ arity params i.opcode ∧ i.mode = 3) := by
    rintro ⟨ha, h3⟩
    exact Width.mode_ne_three _ ((makeInstr_mode hm (hn ▸ ha)).symm.trans h3)
  simp only [he, List.cons_append, decode, opcodeField_opcodeByte, modeField_opcodeByte, if_neg hmode, hops, hm]

theorem encode_length_le (i : Instr) : (encode params i).length ≤ 11 := by
  obtain ⟨operands, he, -, -⟩ := encode_eq i
  rw [he, List.length_cons]
  exact Nat.succ_le_succ (operands.bytes_length_le _ _)

end Sys2Proof

namespace Sys2Proof.Machine

/-- The fetched window begins with the encoding that lies at PC (R132). -/
theorem fetchInstr_of_encode {s : State} {i : Instr} (hw : i.wf = true)
    (h : s.mem.readBytes s.pc (encode params i).length = encode params i) : fetchInstr s = .ok i := by
  obtain ⟨k, hk⟩ := Nat.exists_eq_add_of_le (encode_length_le i)
  apply fetchInstr_of_decode
  rw [hk, Memory.readBytes_add, h]
  exact decode_encode i _ hw

/-! ## The bytes of an access -/

variable {P : Params} {m : Memory} {a : Addr} {n : Nat}

/-- Byte `i` of an access is at `a + i`, modulo 2^16 (R53). -/
theorem Memory.readBytes_eq_map (m : Memory) (a : Addr) (n : Nat) :
    m.readBytes a n = (List.range n).map fun i => m.read (a + BitVec.ofNat 16 i) := by
  induction n with
  | zero => rfl
  | succ n ih => rw [Memory.readBytes_add, List.range_succ, List.map_append, ih]; rfl

/-- Each stored byte reads back at its own address (R52). -/
theorem Memory.read_writeBytes (bs : List Byte) (h : m.wf = true) (hl : bs.length ≤ 65536) {i : Nat}
    (hi : i < bs.length) : (m.writeBytes a bs).read (a + BitVec.ofNat 16 i) = bs[i] := by
  have hb := Memory.readBytes_writeBytes a bs h hl
  have hg := List.getElem_of_eq hb (i := i) (by rwa [Memory.readBytes_length])
  simpa only [Memory.readBytes_eq_map, List.getElem_map, List.getElem_range] using hg

/-! ## The primitives -/

theorem crossesTop_eq_true_iff : crossesTop params a n = true ↔ 65536 < a.toNat + n := by
  simp [crossesTop, params]

theorem crossesTop_eq_false_iff : crossesTop params a n = false ↔ a.toNat + n ≤ 65536 := by
  rw [← Bool.not_eq_true, crossesTop_eq_true_iff, Nat.not_lt]

theorem crossesTop_of_wrap (h : P.crossTopPolicy = .wrap) (a : Addr) (n : Nat) : crossesTop P a n = false := by
  simp [crossesTop, h]

/-- What a read gives that stays below the top, or wraps (R51, R54). -/
theorem memRead_of_inside (m : Memory) (h : crossesTop P a n = false) :
    memRead P m a n = .ok (BitVec.ofNat 32 (beValue (m.readBytes a n))) := by
  simp [memRead, h]

/-- What a write does that stays below the top, or wraps (R52, R54). -/
theorem memWrite_of_inside (m : Memory) (v : Word) (h : crossesTop P a n = false) :
    memWrite P m a n v = .ok (m.writeBytes a (beBytes n v.toNat)) := by
  simp [memWrite, h]

theorem memRead_of_crossesTop (m : Memory) (h : crossesTop P a n = true) :
    memRead P m a n = .error (.crossTopAccess a n) := by
  simp [memRead, h]

theorem memWrite_of_crossesTop (m : Memory) (v : Word) (h : crossesTop P a n = true) :
    memWrite P m a n v = .error (.crossTopAccess a n) := by
  simp [memWrite, h]

/-- A write reads back at its width, wrapped or not (R52). -/
theorem memRead_memWrite {m' : Memory} {v : Word} (h : memWrite P m a n v = .ok m') (hw : m.wf = true)
    (hn : n ≤ 65536) : memRead P m' a n = .ok (BitVec.ofNat 32 (v.toNat % 2 ^ (8 * n))) := by
  obtain ⟨hc, rfl⟩ := memWrite_ok h
  have hb := Memory.readBytes_writeBytes a (beBytes n v.toNat) hw (by rwa [beBytes_length])
  rw [beBytes_length] at hb
  rw [memRead_of_inside _ hc, hb, beValue_beBytes, two_pow_eight_mul]

/-- Byte `i` of a write is byte `n - 1 - i` of the value: memory is big-endian (R52). -/
theorem read_memWrite {m' : Memory} {v : Word} (h : memWrite P m a n v = .ok m') (hw : m.wf = true)
    (hn : n ≤ 65536) {i : Nat} (hi : i < n) :
    (m'.read (a + BitVec.ofNat 16 i)).toNat = v.toNat / 2 ^ (8 * (n - 1 - i)) % 2 ^ 8 := by
  obtain ⟨-, rfl⟩ := memWrite_ok h
  rw [Memory.read_writeBytes _ hw (by simpa using hn) (by simpa using hi), beBytes_getElem, BitVec.toNat_ofNat,
    two_pow_eight_mul]

/-! ## The three widths of a read -/

theorem beValue_readBytes_one (m : Memory) (a : Addr) : beValue (m.readBytes a 1) = (m.read a).toNat := by
  simp [Memory.readBytes, beValue_cons]

theorem beValue_readBytes_two (m : Memory) (a : Addr) :
    beValue (m.readBytes a 2) = (m.read a).toNat * 2 ^ 8 + (m.read (a + 1)).toNat := by
  simp [Memory.readBytes, beValue_cons]

theorem beValue_readBytes_four (m : Memory) (a : Addr) :
    beValue (m.readBytes a 4) = (m.read a).toNat * 2 ^ 24 + (m.read (a + 1)).toNat * 2 ^ 16 +
      (m.read (a + 2)).toNat * 2 ^ 8 + (m.read (a + 3)).toNat := by
  have h2 : a + 1 + 1 = a + 2 := by rw [BitVec.add_assoc]; rfl
  have h3 : a + 2 + 1 = a + 3 := by rw [BitVec.add_assoc]; rfl
  simp only [Memory.readBytes, beValue_cons, beValue_nil, List.length_cons, List.length_nil, h2, h3]
  omega

end Sys2Proof.Machine

/-! ## The obligations -/

namespace Sys2Proof.Claims

open Sys2Proof.Machine

/-- Settles O8: the decoder inverts the encoder on the window that the fetch reads. -/
theorem stepRunsTheEncodedInstruction : Obligations.StepRunsTheEncodedInstruction :=
  fun _ _ hf hs hw h => step_of_fetchInstr hf hs (fetchInstr_of_encode hw h)

/-- Settles O10: reads by width, and the bytes, the read-back and the frame of a write. -/
theorem memoryPrimitivesAreBigEndian : Obligations.MemoryPrimitivesAreBigEndian := by
  refine ⟨fun m a => ⟨?_, fun h => ?_, fun h => ?_⟩, fun m a n v hw hn ha => ?_⟩
  · have ha := a.isLt
    rw [memRead_of_inside m (crossesTop_eq_false_iff.mpr (by omega)), beValue_readBytes_one]
  · rw [memRead_of_inside m (crossesTop_eq_false_iff.mpr (by omega)), beValue_readBytes_two]
  · rw [memRead_of_inside m (crossesTop_eq_false_iff.mpr (by omega)), beValue_readBytes_four]
  · have hn' : n ≤ 65536 := by omega
    have hm := memWrite_of_inside m v (crossesTop_eq_false_iff.mpr ha)
    exact ⟨_, hm, memWrite_wf hm hw, fun i hi => read_memWrite hm hw hn' hi, memRead_memWrite hm hw hn',
      fun x hx => memWrite_frame hm hx⟩

/-- Settles O11. With the wrap policy no access crosses the top, and its bytes lie at the wrapped addresses (R53). -/
theorem crossTopAccessFaultsOrWraps : Obligations.CrossTopAccessFaultsOrWraps := by
  refine ⟨fun m a n v h => ?_, fun P m a n v hp hw hn => ?_⟩
  · have hc := crossesTop_eq_true_iff.mpr (show 65536 < a.toNat + n by omega)
    exact ⟨memRead_of_crossesTop m hc, memWrite_of_crossesTop m v hc⟩
  · have hc := crossesTop_of_wrap hp a n
    have haddr : ∀ i : Nat, a + BitVec.ofNat 16 i = BitVec.ofNat 16 ((a.toNat + i) % 65536) := fun i =>
      BitVec.eq_of_toNat_eq (by simp)
    have hm := memWrite_of_inside m v hc
    refine ⟨?_, _, hm, memRead_memWrite hm hw (by omega)⟩
    simp only [memRead_of_inside m hc, Memory.readBytes_eq_map, haddr]

end Sys2Proof.Claims
end

section
/-! PROOF. The family 30_encoding: decode and encode invert each other (R70 to R80), the arity bands (R81) and the
reserved bits-mode (R72), the inline forms and the special registers as a descriptor byte selects them (R102, R103,
R108), and the unassigned opcode numbers (R84). -/

/-! ## The fields of the two header bytes as numbers -/

namespace Sys2Proof

theorem opcodeField_toNat (b : Byte) : (opcodeField b).toNat = b.toNat / 4 := by
  revert b; decide

theorem modeField_toNat (b : Byte) : (modeField b).toNat = b.toNat % 4 := by
  revert b; decide

theorem opcodeByte_eq_ofNat (op : BitVec 6) (m : BitVec 2) :
    opcodeByte op m = BitVec.ofNat 8 (op.toNat * 4 + m.toNat) := by
  revert op m; decide

/-- Bits 7 to 5 select the form and bits 4 to 0 are the code (R73, R76). -/
theorem descriptor_fields_toNat (d : Byte) :
    isRegister params d = decide (128 ≤ d.toNat) ∧ isPointer d = decide (64 ≤ d.toNat % 128) ∧
      isInlineOrSpecial d = decide (32 ≤ d.toNat % 64) ∧ codeField d = BitVec.ofNat 5 (d.toNat % 32) := by
  revert d; decide

theorem arity_eq_zero_iff (op : BitVec 6) : arity params op = 0 ↔ op.toNat < 2 := by
  revert op; decide

theorem arity_eq_one_iff (op : BitVec 6) : arity params op = 1 ↔ 2 ≤ op.toNat ∧ op.toNat < 17 := by
  revert op; decide

theorem arity_eq_two_iff (op : BitVec 6) : arity params op = 2 ↔ 17 ≤ op.toNat := by
  revert op; decide

/-! ## Encoding what was decoded -/

variable {P : Params} {w : Width} {o : Option Operation} {op : BitVec 6} {mode : BitVec 2} {operands : Operands}
  {i : Instr} {bs rest : List Byte}

/-- A word that is wide enough keeps the value of its bytes. -/
theorem toNat_ofNat_beValue {k : Nat} (h : 256 ^ bs.length ≤ 2 ^ k) :
    (BitVec.ofNat k (beValue bs)).toNat = beValue bs := by
  rw [BitVec.toNat_ofNat]
  exact Nat.mod_eq_of_lt ((beValue_lt bs).trans_le h)

/-- An operand keeps the whole descriptor byte it was decoded from, the don't-care bits too (R76, R77, D5). -/
theorem descriptor_operandOf (P : Params) (d : Byte) (extra : List Byte) :
    descriptor P (operandOf P d extra) = d := by
  have hd := descriptorOf_fields P d
  unfold operandOf
  cases hr : isRegister P d <;> cases hp : isPointer d <;> cases hi : isInlineOrSpecial d <;>
    rw [hr, hp, hi] at hd <;> exact hd

/-- An operand made of as many bytes as its descriptor asks for encodes to these bytes (R76, R78). -/
theorem encodeOperand_operandOf (d : Byte) {extra : List Byte} (h : extra.length = extraBytes P w d) :
    encodeOperand P w (operandOf P d extra) = d :: extra := by
  unfold encodeOperand
  rw [descriptor_operandOf]
  congr 1
  unfold operandOf
  unfold extraBytes at h
  cases hr : isRegister P d <;> cases hp : isPointer d <;> cases hi : isInlineOrSpecial d <;>
    simp only [hr, hp, hi, Bool.or_self, Bool.or_true, Bool.true_or, Bool.false_eq_true, if_true, if_false] at h
  case false.false.false =>
    have hv : (256 : Nat) ^ extra.length ≤ 2 ^ 32 := by rw [h]; cases w <;> decide
    simp only [toNat_ofNat_beValue hv, ← h, beBytes_beValue]
  case false.true.false =>
    have hv : (256 : Nat) ^ extra.length ≤ 2 ^ 16 := by rw [h]; decide
    simp only [toNat_ofNat_beValue hv, ← h, beBytes_beValue]
  all_goals exact (List.eq_nil_of_length_eq_zero h).symm

theorem encodeOperand_decodeOperand {a : Operand} (h : decodeOperand P w bs = .ok (a, rest)) :
    encodeOperand P w a ++ rest = bs := by
  cases bs with
  | nil => cases h
  | cons d tail =>
    simp only [decodeOperand] at h
    split at h
    · cases h
    · rename_i hl
      cases h
      rw [encodeOperand_operandOf d (List.length_take_of_le (Nat.le_of_not_lt hl)), List.cons_append,
        List.take_append_drop]

/-- Decoded operands are as many as were asked for, and their bytes are the ones consumed (R70, R81). -/
theorem decodeOperands_ok {n : Nat} (hn : n ≤ 2) (h : decodeOperands P w n bs = .ok (operands, rest)) :
    operands.count = n ∧ operands.bytes P w ++ rest = bs := by
  match n with
  | 0 => cases h; exact ⟨rfl, rfl⟩
  | 1 =>
    simp only [decodeOperands] at h
    split at h
    · cases h
    · rename_i ha
      cases h
      exact ⟨rfl, encodeOperand_decodeOperand ha⟩
  | 2 =>
    simp only [decodeOperands] at h
    split at h
    · cases h
    rename_i ha
    split at h
    · cases h
    rename_i hb
    cases h
    exact ⟨rfl, by rw [Operands.bytes, List.append_assoc, encodeOperand_decodeOperand hb,
      encodeOperand_decodeOperand ha]⟩

/-! ## What a made instruction holds -/

/-- The fields of the instruction of an unassigned number (R84). -/
theorem unassignedMake_fields {make : Width → Operand → Operand → Instr} (h : unassignedMake op = some make)
    (w : Width) (a b : Operand) : (make w a b).opcode = op ∧ (make w a b).operation = none ∧
      (make w a b).operandBytes P = encodeOperand P w a ++ encodeOperand P w b := by
  have hrow : ∀ k < 14, unassignedInstrs[k]? = some make → (make w a b).opcode = BitVec.ofNat 6 (50 + k) ∧
      (make w a b).operation = none ∧
      (make w a b).operandBytes P = encodeOperand P w a ++ encodeOperand P w b := by
    intro k hk hm
    interval_cases k <;> (cases hm; exact ⟨rfl, rfl, rfl⟩)
  have hlt := op.isLt
  unfold unassignedMake at h
  split at h
  · have hop : BitVec.ofNat 6 (50 + (op.toNat - 50)) = op := BitVec.eq_of_toNat_eq (by simp; omega)
    rw [← hop]
    simpa [hop] using hrow _ (by omega) h
  · cases h

/-- An instruction keeps the operation and the operands it is made of, and an unassigned one its number (R70, R85). -/
theorem makeInstr_fields (h : makeInstr o op mode operands = some i) :
    i.operation = o ∧ i.operandBytes P = operands.bytes P (widthOf mode) ∧ (o = none → i.opcode = op) := by
  cases operands with
  | zero =>
    rcases o with _ | (z | z | z) <;> cases h
    cases z <;> exact ⟨rfl, rfl, nofun⟩
  | one a =>
    rcases o with _ | (z | z | z) <;> cases h
    cases z <;> exact ⟨rfl, rfl, nofun⟩
  | two a b =>
    rcases o with _ | (z | z | z)
    · obtain ⟨make, hm, rfl⟩ := Option.map_eq_some_iff.mp h
      obtain ⟨hop, ho, hb⟩ := unassignedMake_fields (P := P) hm (widthOf mode) a b
      exact ⟨ho, hb, fun _ => hop⟩
    · cases h
    · cases h
    · cases h
      cases z <;> exact ⟨rfl, rfl, nofun⟩

/-- The decided map numbers an instruction by the number it is made for (R85). -/
theorem makeInstr_opcode (h : makeInstr (params.operation op) op mode operands = some i) : i.opcode = op := by
  obtain ⟨hin, -, -⟩ := Laws.OpcodeRow.statement i
  obtain ⟨ho, -, hnone⟩ := makeInstr_fields (P := params) h
  cases hop : params.operation op with
  | none => exact hnone hop
  | some o =>
    obtain hn | ⟨hn, -⟩ := Machine.operation_number op
    · rw [hop, Option.map_some, Option.some.injEq] at hn
      rw [← hin, Instr.opcodeIn, ho, hop]
      exact hn
    · cases hop.symm.trans hn

/-- Only an instruction without operands can hold bits-mode 3 (R72), so every mode is kept. -/
theorem makeInstr_mode_eq (h : makeInstr o op mode operands = some i) (hm : ¬ (1 ≤ operands.count ∧ mode = 3)) :
    i.mode = mode := by
  by_cases hc : 1 ≤ operands.count
  · rw [makeInstr_mode h hc, mode_widthOf fun h3 => hm ⟨hc, h3⟩]
  · cases operands with
    | zero =>
      rcases o with _ | (z | z | z) <;> cases h
      cases z <;> rfl
    | one a => exact absurd (Nat.le_refl 1) hc
    | two a b => exact absurd (Nat.le_add_left 1 1) hc

theorem arity_le_two (op : BitVec 6) : arity params op ≤ 2 := (Machine.reference_bands op).1

/-- Everything a decoded instruction holds: the two fields of the opcode byte, and the operands that the band of its
number selects, whose bytes are the ones consumed after it (R70, R71, R81). -/
theorem decode_fields (h : decode params bs = .ok (i, rest)) :
    ∃ b tail, ∃ operands : Operands, bs = b :: tail ∧ i.opcode = opcodeField b ∧ i.mode = modeField b ∧
      operands.count = arity params (opcodeField b) ∧
      i.operandBytes params = operands.bytes params (widthOf (modeField b)) ∧
      operands.bytes params (widthOf (modeField b)) ++ rest = tail := by
  obtain ⟨b, tail, operands, rfl, hmode, hops, hi⟩ := decode_ok h
  obtain ⟨hcount, hbytes⟩ := decodeOperands_ok (arity_le_two _) hops
  obtain ⟨-, hib, -⟩ := makeInstr_fields (P := params) hi
  exact ⟨b, tail, operands, rfl, makeInstr_opcode hi, makeInstr_mode_eq hi (hcount ▸ hmode), hcount, hib, hbytes⟩

/-- The encoder inverts the decoder on whatever decodes (R70, R77). -/
theorem encode_decode (h : decode params bs = .ok (i, rest)) : encode params i ++ rest = bs := by
  obtain ⟨b, tail, operands, rfl, hop, hmode, -, hib, hbytes⟩ := decode_fields h
  obtain ⟨hin, -, -⟩ := Laws.OpcodeRow.statement i
  rw [encode, hin, hop, hmode, opcodeByte_fields, hib, List.cons_append, hbytes]

/-! ## Eleven bytes are enough -/

/-- Five bytes hold an operand: its descriptor and four more at most (R76, R79). -/
theorem decodeOperand_of_five_le (h : 5 ≤ bs.length) :
    ∃ a rest, decodeOperand P w bs = .ok (a, rest) ∧ bs.length ≤ rest.length + 5 := by
  cases bs with
  | nil => cases h
  | cons d tail =>
    have hx := Machine.extraBytes_le P w d
    rw [List.length_cons] at h
    refine ⟨_, _, by rw [decodeOperand, if_neg (by omega)], ?_⟩
    rw [List.length_drop, List.length_cons]
    omega

theorem decodeOperands_of_ten_le (n : Nat) (h : 10 ≤ bs.length) :
    ∃ operands rest, decodeOperands P w n bs = .ok (operands, rest) := by
  obtain ⟨a, restA, ha, hl⟩ := decodeOperand_of_five_le (P := P) (w := w) (show 5 ≤ bs.length by omega)
  obtain ⟨b, restB, hb, -⟩ := decodeOperand_of_five_le (P := P) (w := w) (show 5 ≤ restA.length by omega)
  match n with
  | 0 => exact ⟨_, _, rfl⟩
  | 1 => exact ⟨.one a, restA, by simp only [decodeOperands, ha]⟩
  | _ + 2 => exact ⟨.two a b, restB, by simp only [decodeOperands, ha, hb]⟩

/-- An opcode byte and the ten bytes after it are never too few (R80), under any parameters. -/
theorem decode_ne_truncated (h : 11 ≤ bs.length) : decode P bs ≠ .error .truncated := by
  cases bs with
  | nil => cases h
  | cons b tail =>
    obtain ⟨operands, rest, hops⟩ := decodeOperands_of_ten_le (P := P) (w := widthOf (modeField b))
      (arity P (opcodeField b)) (Nat.le_of_succ_le_succ h)
    simp only [decode, hops]
    split
    · nofun
    · split <;> nofun

end Sys2Proof

namespace Sys2Proof.Machine

variable {P : Params} {s : State} {ip0 : Addr} {off : Nat} {w : Width} {v : Word} {o : Operand} {op : BitVec 6}

/-! ## Bits-mode 3 -/

/-- Mode 3 on a number from 2 on ends the cycle at step 2 (R72, R133, D2). -/
theorem step_of_reservedBitsMode (hf : s.faulted = none) (hs : s.stopped = none)
    (ha : 1 ≤ arity params (opcodeField (s.mem.read s.pc))) (hm : modeField (s.mem.read s.pc) = 3) :
    step s = .next (s.raise (.reservedBitsMode (opcodeField (s.mem.read s.pc)))) := by
  simp only [step, hf, hs, fetchInstr_eq, if_pos (And.intro ha hm), undecoded]

/-! ## Operands at a descriptor -/

/-- The inline immediate of a decoded operand is the low six bits of its descriptor (R74, D4). -/
theorem setWidth_inlineImm_operandOf (k : Nat) (d : Byte) (extra : List Byte) :
    (inlineImm params (operandOf params d extra)).setWidth k = BitVec.ofNat k (d.toNat % 64) := by
  have hmask : ∀ d : Byte, (d &&& params.inlineMask).toNat = d.toNat % 64 := by decide
  apply BitVec.eq_of_toNat_eq
  rw [inlineImm, descriptor_operandOf, BitVec.toNat_setWidth, hmask, BitVec.toNat_ofNat]

theorem operandOf_inline {d : Byte} (extra : List Byte) (hlo : 0x20 ≤ d.toNat) (hhi : d.toNat ≤ 0x3F) :
    operandOf params d extra = .inline (codeField d) := by
  obtain ⟨hr, hp, hi, -⟩ := descriptor_fields_toNat d
  unfold operandOf
  rw [hr, hp, hi, decide_eq_false (by omega), decide_eq_false (by omega), decide_eq_true (by omega)]

theorem operandOf_inlinePtr {d : Byte} (extra : List Byte) (hlo : 0x60 ≤ d.toNat) (hhi : d.toNat ≤ 0x7F) :
    operandOf params d extra = .inlinePtr (codeField d) := by
  obtain ⟨hr, hp, hi, -⟩ := descriptor_fields_toNat d
  unfold operandOf
  rw [hr, hp, hi, decide_eq_false (by omega), decide_eq_true (by omega), decide_eq_true (by omega)]

theorem operandOf_special {d : Byte} (extra : List Byte) (hlo : 0xA0 ≤ d.toNat) (hhi : d.toNat ≤ 0xBF) :
    operandOf params d extra = .special (BitVec.ofNat 5 (d.toNat - 0xA0)) := by
  obtain ⟨hr, hp, hi, hc⟩ := descriptor_fields_toNat d
  unfold operandOf
  rw [hr, hp, hi, hc, decide_eq_true (by omega), decide_eq_false (by omega), decide_eq_true (by omega)]
  simp only [show d.toNat % 32 = d.toNat - 0xA0 by omega]

/-! ## Loads and stores through a pointer -/

theorem loadThrough_of {ea : Addr} {x : Word} (hp : pointerAddr P s ip0 off o = .ok (some ea))
    (hx : memRead P s.mem ea w.bytes = .ok x) :
    loadThrough P s ip0 off w o = .ok ⟨x, operandLen w o, some ea⟩ := by
  simp only [loadThrough, hp, hx]

theorem storeThrough_of {ea : Addr} {m : Memory} (hp : pointerAddr P s ip0 off o = .ok (some ea))
    (hm : memWrite P s.mem ea w.bytes v = .ok m) : storeThrough P s ip0 off w v o = .ok (s.setMem m) := by
  simp only [storeThrough, hp, hm]

/-! ## Special registers -/

/-- A special register is read modulo `2^wbits` (R108, D8). -/
theorem specialValue_eq_ofNat (w : Width) (x : Addr) :
    specialValue w x = BitVec.ofNat 32 (x.toNat % 2 ^ w.bits) := by
  have hx : x.toNat < 2 ^ 16 := x.isLt
  apply BitVec.eq_of_toNat_eq
  cases w with
  | w8 => simp [specialValue, Width.bits, Width.bytes]
  | w16 =>
    simp [specialValue, Width.bits, Width.bytes]
    omega
  | w32 => simp [specialValue, Width.bits, Width.bytes]

/-- A special register takes the committed value modulo `2^wbits`, zero-extended (R118, D9). -/
theorem specialField_eq_ofNat (w : Width) (v : Word) :
    specialField w v = BitVec.ofNat 16 (v.toNat % 2 ^ w.bits) := by
  apply BitVec.eq_of_toNat_eq
  cases w <;> simp [specialField, Width.bits, Width.bytes]

theorem resolve_special {c : BitVec 5} (h : c.toNat < 2) :
    resolve P s ip0 off w (.special c) =
      .ok ⟨BitVec.ofNat 32 ((s.specialRead c).toNat % 2 ^ w.bits), 1, none⟩ := by
  rw [resolve, if_neg (Nat.not_le.mpr h), specialValue_eq_ofNat, operandLen]

theorem commitTo_special {c : BitVec 5} (h : c.toNat < 2) :
    commitTo P s ip0 off w v (.special c) =
      .ok (s.specialWrite c (BitVec.ofNat 16 (v.toNat % 2 ^ w.bits))) := by
  rw [commitTo, if_neg (Nat.not_le.mpr h), specialField_eq_ofNat]

theorem resolve_special_of_bad {c : BitVec 5} (h : 2 ≤ c.toNat) :
    resolve P s ip0 off w (.special c) = .error (.badSpecialRegister c) := by
  rw [resolve, if_pos h]

theorem commitTo_special_of_bad {c : BitVec 5} (h : 2 ≤ c.toNat) :
    commitTo P s ip0 off w v (.special c) = .error (.badSpecialRegister c) := by
  rw [commitTo, if_pos h]

/-! ## A completed cycle without effect -/

/-- An unassigned number outside the result band only advances over its operands (R84, R164). -/
theorem noOperation_completes {a b : Operand} {ra rb : Resolved} (hop : inResultBand params op = false)
    (hr : resolveTwo params s.fetched w a b = .ok (ra, rb)) :
    noOperation op w a b s = .next (finish params (ra.len + rb.len) false s.fetched) := by
  unfold noOperation aluTwo
  exact cycleTwo_completes (d := ⟨s.fetched, 0, false⟩) hr rfl (writeback_outside hop)

end Sys2Proof.Machine

/-! ## The obligations -/

namespace Sys2Proof.Claims

open Sys2Proof.Machine

/-- The first byte of every encoding holds the instruction's own number and mode (R71, R85). -/
theorem hasOpcode_opcode (i : Instr) : hasOpcode i i.opcode := by
  obtain ⟨operands, he, -, -⟩ := encode_eq i
  exact ⟨rfl, by rw [he, List.head?_cons, opcodeByte_eq_ofNat]⟩

/-- With the decided parameters the end of a cycle is the one the statements spell out (R139, R140). -/
theorem finish_eq_completed (n : Nat) (p : Bool) (t : State) : finish params n p t = completed t n := rfl

/-- What each row of the unassigned numbers says of its number (R84, R85). -/
theorem unassignedMakers_row {n : BitVec 6} {make : Width → Operand → Operand → Instr}
    (h : (n, make) ∈ unassignedMakers) (w : Width) (a b : Operand) (s : State) :
    (make w a b).opcode = n ∧ inResultBand params n = false ∧ exec (make w a b) s = noOperation n w a b s := by
  have hall : ∀ row ∈ unassignedMakers, (row.2 w a b).opcode = row.1 ∧ inResultBand params row.1 = false ∧
      exec (row.2 w a b) s = noOperation row.1 w a b s := by
    simp only [unassignedMakers, List.forall_mem_cons]
    refine ⟨?_, ?_, ?_, ?_, ?_, ?_, ?_, ?_, ?_, ?_, ?_, ?_, ?_, ?_, nofun⟩ <;> exact ⟨rfl, rfl, rfl⟩
  exact hall _ h

/-- Settles O1, by what the operands of the instruction encode to. -/
theorem decodeOfEncodeIsTheInstruction : Obligations.DecodeOfEncodeIsTheInstruction := decode_encode

/-- Settles O2: the fields a decoded instruction holds are those of the bytes consumed. -/
theorem encodeOfDecodeIsTheBytes : Obligations.EncodeOfDecodeIsTheBytes :=
  fun _ _ _ h => ⟨decode_wf h, encode_decode h⟩

/-- Settles O3: an operand has five bytes at most. -/
theorem elevenBytesHoldAnInstruction : Obligations.ElevenBytesHoldAnInstruction :=
  ⟨fun i => ⟨Nat.le_add_left 1 _, encode_length_le i⟩, fun _ => decode_ne_truncated⟩

/-- Settles O5: the number of operands is the arity of the number's band, and they are all that is consumed. -/
theorem arityIsReadFromTheBands : Obligations.ArityIsReadFromTheBands := by
  intro b rest rest' i h
  obtain ⟨_, _, operands, heq, hop, -, hcount, hib, hbytes⟩ := decode_fields h
  cases heq
  rw [hop, ← opcodeField_toNat b, hib]
  refine ⟨rfl, fun h0 => ?_, fun h2 h17 => ?_, fun h17 => ?_⟩
  · rw [(arity_eq_zero_iff _).mpr h0] at hcount
    cases operands <;> cases hcount
    exact hbytes
  · rw [(arity_eq_one_iff _).mpr ⟨h2, h17⟩] at hcount
    cases operands <;> cases hcount
    exact ⟨_, _, rfl⟩
  · rw [(arity_eq_two_iff _).mpr h17] at hcount
    cases operands <;> cases hcount
    exact ⟨_, _, _, rfl⟩

/-- Settles O6. NOP and RET hold their mode and use it in nothing. -/
theorem reservedBitsModeFaults : Obligations.ReservedBitsModeFaults := by
  refine ⟨fun s hf hs hmode hlo => ?_, fun m m' s => ⟨rfl, rfl⟩⟩
  have hop := opcodeField_toNat (s.mem.read s.pc)
  have harity : arity params (opcodeField (s.mem.read s.pc)) ≠ 0 := by
    rw [Ne, arity_eq_zero_iff]
    omega
  have hm : modeField (s.mem.read s.pc) = 3 := BitVec.eq_of_toNat_eq (by rw [modeField_toNat, hmode]; rfl)
  rw [step_of_reservedBitsMode hf hs (Nat.one_le_iff_ne_zero.mpr harity) hm, ← hop, BitVec.ofNat_toNat,
    BitVec.setWidth_eq]
  rfl

/-- Settles O13: an inline address is below 64, so that no access through it passes the top. -/
theorem inlineForms : Obligations.InlineForms := by
  intro s ip0 off w v d hd
  have himm := fun k => setWidth_inlineImm_operandOf k d
    (s.mem.readBytes (ip0 + BitVec.ofNat 16 off + 1) (extraBytes params w d))
  simp only [operandAt, hd]
  refine ⟨fun hlo hhi => ?_, fun hlo hhi => ?_⟩
  · rw [operandOf_inline _ hlo hhi] at himm ⊢
    exact ⟨by rw [resolve, himm]; rfl, rfl⟩
  · rw [operandOf_inlinePtr _ hlo hhi] at himm ⊢
    have hin : crossesTop params (BitVec.ofNat 16 (d.toNat % 64)) w.bytes = false := by
      rw [crossesTop_eq_false_iff, BitVec.toNat_ofNat]
      have hw : w.bytes ≤ 4 := by cases w <;> decide
      omega
    have hp : pointerAddr params s ip0 off (.inlinePtr (codeField d)) =
        .ok (some (BitVec.ofNat 16 (d.toNat % 64))) := by
      rw [pointerAddr, himm]
    have hx := memRead_of_inside s.mem hin
    have hm := memWrite_of_inside s.mem v hin
    exact ⟨⟨_, hx, loadThrough_of hp hx⟩, ⟨_, hm, storeThrough_of hp hm⟩⟩

/-- Settles O18: the code is read off the descriptor, and PC and SP differ in nothing else. -/
theorem specialRegisterForm : Obligations.SpecialRegisterForm := by
  intro s ip0 off w v d hd
  simp only [operandAt, hd]
  refine ⟨?_, ?_, fun hlo hhi => ?_⟩
  · rintro rfl
    rw [operandOf_special _ (by decide) (by decide)]
    exact ⟨resolve_special (by decide), commitTo_special (by decide)⟩
  · rintro rfl
    rw [operandOf_special _ (by decide) (by decide)]
    exact ⟨resolve_special (by decide), commitTo_special (by decide)⟩
  · rw [operandOf_special _ (by omega) hhi]
    have hc : 2 ≤ (BitVec.ofNat 5 (d.toNat - 0xA0)).toNat := by
      rw [BitVec.toNat_ofNat]
      omega
    exact ⟨resolve_special_of_bad hc, commitTo_special_of_bad hc⟩

/-- Settles O33: the numbers lie above the result band, so that nothing is committed. -/
theorem unassignedOpcodesDoNothing : Obligations.UnassignedOpcodesDoNothing := by
  intro n make hmake w a b s
  obtain ⟨hop, hband, hexec⟩ := unassignedMakers_row hmake w a b s
  refine ⟨hop ▸ hasOpcode_opcode _, fun ra rb ha hb => ?_⟩
  rw [hexec, noOperation_completes hband (resolveTwo_of ha hb), finish_eq_completed]
  rfl

end Sys2Proof.Claims
end

section
/-! PROOF. The family 40_operands: forms 3 to 6 and 8 as a descriptor byte selects them (R104 to R107, R109, R114 to R117,
R119), an operand that does not resolve (R110, R134), the frame of a commit (R112 to R119), XCHG's two commits (R121,
R137), and the suppressed cycle (R120, R138, R143). -/

/-! ## The descriptor byte of a form and a code -/

namespace Sys2Proof

theorem toNat_descriptorOf (r p f : Bool) (c : BitVec 5) :
    (descriptorOf params r p f c).toNat = 128 * r.toNat + 64 * p.toNat + 32 * f.toNat + c.toNat := by
  revert r p f c; decide

theorem eq_descriptorOf {d : Byte} {r p f : Bool} {c : BitVec 5}
    (h : d.toNat = 128 * r.toNat + 64 * p.toNat + 32 * f.toNat + c.toNat) : d = descriptorOf params r p f c :=
  BitVec.eq_of_toNat_eq (h.trans (toNat_descriptorOf r p f c).symm)

/-- The 32 bytes from `base` on differ in a code only (R73). -/
theorem exists_code {d : Byte} {base : Nat} (hlo : base ≤ d.toNat) (hhi : d.toNat ≤ base + 0x1F) :
    ∃ c : BitVec 5, d.toNat = base + c.toNat :=
  ⟨BitVec.ofNat 5 (d.toNat - base), by rw [BitVec.toNat_ofNat]; omega⟩

end Sys2Proof

namespace Sys2Proof.Machine

variable {P : Params} {s : State} {ip0 : Addr} {off : Nat} {w : Width} {v : Word} {a b o : Operand} {op : BitVec 6}
  {f : ModelFault}

/-! ## The operand a descriptor byte selects in memory -/

section operandAt
variable {m : Memory} {x : Addr} {c : BitVec 5}

theorem operandAt_literal (h : (m.read x).toNat = c.toNat) :
    operandAt params m x w = .literal c (BitVec.ofNat 32 (beValue (m.readBytes (x + 1) w.bytes))) := by
  have hd : m.read x = descriptorOf params false false false c := eq_descriptorOf (by simpa using h)
  simp [operandAt, operandOf, extraBytes, hd]

theorem operandAt_literalPtr (h : (m.read x).toNat = 0x40 + c.toNat) :
    operandAt params m x w = .literalPtr c (BitVec.ofNat 16 (beValue (m.readBytes (x + 1) 2))) := by
  have hd : m.read x = descriptorOf params false true false c := eq_descriptorOf (by simpa using h)
  simp [operandAt, operandOf, extraBytes, hd]

theorem operandAt_reg (h : (m.read x).toNat = 0x80 + c.toNat) : operandAt params m x w = .reg c := by
  have hd : m.read x = descriptorOf params true false false c := eq_descriptorOf (by simpa using h)
  simp [operandAt, operandOf, hd]

theorem operandAt_regPtr (h : (m.read x).toNat = 0xC0 + c.toNat) : operandAt params m x w = .regPtr c := by
  have hd : m.read x = descriptorOf params true true false c := eq_descriptorOf (by simpa using h)
  simp [operandAt, operandOf, hd]

theorem operandAt_specialPtr (h : (m.read x).toNat = 0xE0 + c.toNat) : operandAt params m x w = .specialPtr c := by
  have hd : m.read x = descriptorOf params true true true c := eq_descriptorOf (by simpa using h)
  simp [operandAt, operandOf, hd]

end operandAt

/-! ## The addresses of the pointer forms -/

theorem pointerAddr_literalPtr {c : BitVec 5} {x : Addr} (h : crossesTop P (afterDescriptor ip0 off) 2 = false) :
    pointerAddr P s ip0 off (.literalPtr c x) = .ok (some x) := by
  simp [pointerAddr, h]

theorem pointerAddr_literalPtr_of_crossesTop {c : BitVec 5} {x : Addr}
    (h : crossesTop P (afterDescriptor ip0 off) 2 = true) :
    pointerAddr P s ip0 off (.literalPtr c x) = .error (.crossTopAccess (afterDescriptor ip0 off) 2) := by
  simp [pointerAddr, h]

theorem pointerAddr_specialPtr {c : BitVec 5} (h : c.toNat < 2) :
    pointerAddr P s ip0 off (.specialPtr c) = .ok (some (specialPointer s off c)) := by
  rw [pointerAddr, if_neg (Nat.not_le.mpr h)]

theorem pointerAddr_specialPtr_of_bad {c : BitVec 5} (h : 2 ≤ c.toNat) :
    pointerAddr P s ip0 off (.specialPtr c) = .error (.badSpecialRegister c) := by
  rw [pointerAddr, if_pos h]

/-- A register pointer is two register bytes in big-endian order (R107). -/
theorem setWidth_regRead_two {r : BitVec 5} {ea : Addr}
    (h : ea.toNat = (regByte s.regs r.toNat).toNat * 2 ^ 8 + (regByte s.regs (r.toNat + 1)).toNat) :
    (s.regRead r 2).setWidth 16 = ea := by
  have hlt := ea.isLt
  apply BitVec.eq_of_toNat_eq
  simp only [State.regRead, regBytes, beValue_cons, beValue_nil, List.length_cons, List.length_nil,
    BitVec.toNat_setWidth, BitVec.toNat_ofNat]
  omega

/-- The bytes of a register, each at its own place in the file (R22). -/
theorem regBytes_eq_map (r : Vector Byte 35) (i n : Nat) :
    regBytes r i n = (List.range n).map fun k => regByte r (i + k) := by
  induction n generalizing i with
  | zero => rfl
  | succ n ih =>
    simp only [regBytes, ih, List.range_succ_eq_map, List.map_cons, List.map_map, Nat.add_zero]
    congr 2
    funext k
    rw [Function.comp_apply, Nat.add_right_comm, Nat.add_assoc]

/-! ## Access through a pointer form -/

/-- A form that has an address, or a fault of the address, is loaded and stored through. -/
theorem access_of_pointerAddr (h : pointerAddr P s ip0 off o ≠ .ok none) :
    resolve P s ip0 off w o = loadThrough P s ip0 off w o ∧
      commitTo P s ip0 off w v o = storeThrough P s ip0 off w v o := by
  cases o with
  | inline c => exact absurd rfl h
  | literal c x => exact absurd rfl h
  | reg c => exact absurd rfl h
  | special c => exact absurd rfl h
  | inlinePtr c => exact ⟨rfl, rfl⟩
  | literalPtr c x => exact ⟨rfl, rfl⟩
  | regPtr c => exact ⟨rfl, rfl⟩
  | specialPtr c => exact ⟨rfl, rfl⟩

/-- A pointer form whose address has a fault raises it as a source and as a destination. -/
theorem access_of_pointerAddr_error (h : pointerAddr P s ip0 off o = .error f) :
    resolve P s ip0 off w o = .error f ∧ commitTo P s ip0 off w v o = .error f := by
  obtain ⟨hr, hc⟩ := access_of_pointerAddr (w := w) (v := v) (by rw [h]; nofun)
  rw [hr, hc]
  exact ⟨by simp only [loadThrough, h], by simp only [storeThrough, h]⟩

/-- Everything the load and the store through an address can do: the access, or its fault at the top (R54). -/
theorem access_through {ea : Addr} (w : Width) (v : Word) (h : pointerAddr params s ip0 off o = .ok (some ea)) :
    (∀ x, memRead params s.mem ea w.bytes = .ok x →
      resolve params s ip0 off w o = .ok ⟨x, operandLen w o, some ea⟩) ∧
    (∀ m, memWrite params s.mem ea w.bytes v = .ok m → commitTo params s ip0 off w v o = .ok { s with mem := m }) ∧
    (0xFFFF < ea.toNat + w.bytes - 1 →
      resolve params s ip0 off w o = .error (.crossTopAccess ea w.bytes) ∧
      commitTo params s ip0 off w v o = .error (.crossTopAccess ea w.bytes)) := by
  obtain ⟨hr, hc⟩ := access_of_pointerAddr (w := w) (v := v) (by rw [h]; nofun)
  rw [hr, hc]
  refine ⟨fun x hx => loadThrough_of h hx, fun m hm => storeThrough_of h hm, fun htop => ?_⟩
  have hcross : crossesTop params ea w.bytes = true := crossesTop_eq_true_iff.mpr (by omega)
  exact ⟨by simp only [loadThrough, h, memRead_of_crossesTop _ hcross],
    by simp only [storeThrough, h, memWrite_of_crossesTop _ _ hcross]⟩

/-! ## A destination that was resolved -/

theorem storeThrough_of_loadThrough {r : Resolved} (v : Word) (h : loadThrough P s ip0 off w o = .ok r) :
    ∃ t, storeThrough P s ip0 off w v o = .ok t := by
  obtain ⟨hp, -⟩ | ⟨ea, x, hp, hx, -⟩ := loadThrough_ok h
  · exact ⟨s, by simp only [storeThrough, hp]⟩
  · exact ⟨_, storeThrough_of hp (memWrite_of_inside _ v (memRead_ok hx).1)⟩

/-- What resolves in a state takes a commit in the same state: both make the same checks (R113). -/
theorem commitTo_of_resolve {r : Resolved} (v : Word) (h : resolve P s ip0 off w o = .ok r) :
    ∃ t, commitTo P s ip0 off w v o = .ok t := by
  cases o with
  | inline c => exact ⟨s, rfl⟩
  | literal c x => exact ⟨s, rfl⟩
  | reg c => exact ⟨_, rfl⟩
  | special c =>
    by_cases hc : 2 ≤ c.toNat
    · cases (resolve_special_of_bad hc).symm.trans h
    · exact ⟨_, commitTo_special (Nat.not_le.mp hc)⟩
  | inlinePtr c => rw [resolve] at h; exact storeThrough_of_loadThrough v h
  | literalPtr c x => rw [resolve] at h; exact storeThrough_of_loadThrough v h
  | regPtr c => rw [resolve] at h; exact storeThrough_of_loadThrough v h
  | specialPtr c => rw [resolve] at h; exact storeThrough_of_loadThrough v h

/-! ## Cycles whose operands do not resolve -/

theorem cycleOne_of_error {dispatch : State → Resolved → Except ModelFault Dispatched}
    (h : resolve P s.fetched s.fetched.pc 0 w a = .error f) :
    cycleOne P op w a s dispatch = .next (s.raise f) := by
  simp only [cycleOne, h, settle]

theorem hostEscape_of_error {kind : HostKind} (h : resolve P s.fetched s.fetched.pc 0 w a = .error f) :
    hostEscape P kind w a s = .next (s.raise f) := by
  simp only [hostEscape, h]

theorem resolveTwo_of_errorA (h : resolve P s s.pc 0 w a = .error f) : resolveTwo P s w a b = .error f := by
  simp only [resolveTwo, h]

theorem resolveTwo_of_errorB {ra : Resolved} (ha : resolve P s s.pc 0 w a = .ok ra)
    (hb : resolve P s s.pc ra.len w b = .error f) : resolveTwo P s w a b = .error f := by
  simp only [resolveTwo, ha, hb]

theorem cycleTwo_of_error {dispatch : State → Resolved → Resolved → Except ModelFault Dispatched}
    (h : resolveTwo P s.fetched w a b = .error f) : cycleTwo P op w a b s dispatch = .next (s.raise f) := by
  simp only [cycleTwo, h, settle]

theorem cycleExchange_of_error (h : resolveTwo P s.fetched w a b = .error f) :
    cycleExchange P op w a b s = .next (s.raise f) := by
  simp only [cycleExchange, h, settle]

/-! ## XCHG -/

/-- XCHG ends as its second commit does, from the state after the first (R137). -/
theorem cycleExchange_of_commit {ra rb : Resolved} {t : State} (hr : resolveTwo P s.fetched w a b = .ok (ra, rb))
    (hop : inResultBand P op = true) (hs : s.skipActive = false)
    (ht : commitTo P s.fetched s.fetched.pc 0 w rb.val a = .ok t) :
    (∀ f, commitTo P t s.fetched.pc ra.len w ra.val
        (operandAt P t.mem (s.fetched.pc + BitVec.ofNat 16 ra.len) w) = .error f →
      cycleExchange P op w a b s = .next (s.raise f)) ∧
    (∀ u, commitTo P t s.fetched.pc ra.len w ra.val
        (operandAt P t.mem (s.fetched.pc + BitVec.ofNat 16 ra.len) w) = .ok u →
      ∃ p, cycleExchange P op w a b s = .next (finish P (ra.len + rb.len) p u)) := by
  have hlive : (inResultBand P op && !s.skipActive) = true := by rw [hop, hs]; rfl
  refine ⟨fun f hf => ?_, fun u hu =>
    ⟨writesPc a || writesPc (operandAt P t.mem (s.fetched.pc + BitVec.ofNat 16 ra.len) w), ?_⟩⟩
  · simp only [cycleExchange, hr, exchange, hlive, if_true, ht, hf, settle]
  · simp only [cycleExchange, hr, exchange, hlive, if_true, ht, hu, settle]

/-! ## Suppressed cycles -/

theorem exchange_suppressed {n : Nat} {x y : Word} : exchange P op ip0 w a n x y true s = .ok (s, false) := by
  simp [exchange]

theorem cycleOne_suppressed {dispatch : State → Resolved → Except ModelFault Dispatched} {ra : Resolved}
    {d : Dispatched} (hs : s.skipActive = true) (hra : resolve P s.fetched s.fetched.pc 0 w a = .ok ra)
    (hd : dispatch s.fetched ra = .ok d) :
    cycleOne P op w a s dispatch = .next (finish P ra.len d.pcWritten d.st) :=
  cycleOne_completes hra hd (by rw [hs, writeback_suppressed])

theorem aluTwo_suppressed {g : Word → Word → Except ModelFault Word} {ra rb : Resolved} {x : Word}
    (hs : s.skipActive = true) (hr : resolveTwo params s.fetched w a b = .ok (ra, rb))
    (hx : g ra.val rb.val = .ok x) :
    aluTwo op w a b s g = .next (finish params (ra.len + rb.len) false s.fetched) :=
  cycleTwo_completes (d := ⟨s.fetched, x, false⟩) hr (by rw [hx]; rfl) (by rw [hs, writeback_suppressed])

theorem cycleExchange_suppressed {ra rb : Resolved} (hs : s.skipActive = true)
    (hr : resolveTwo P s.fetched w a b = .ok (ra, rb)) :
    cycleExchange P op w a b s = .next (finish P (ra.len + rb.len) false s.fetched) := by
  simp only [cycleExchange, hr, hs, exchange_suppressed, settle]

theorem popValue_of {x : Word} (h : memRead P s.mem s.sp w.bytes = .ok x) :
    popValue P s w = .ok ⟨s.setSp (s.sp + BitVec.ofNat 16 w.bytes), x, false⟩ := by
  simp only [popValue, h]

/-! ## The frame of a commit -/

theorem commitTo_pc_frame {t : State} (h : commitTo P s ip0 off w v o = .ok t) (ho : o ≠ .special 0) :
    t.pc = s.pc := by
  obtain ⟨-, rfl⟩ | ⟨r, -, rfl⟩ | ⟨k, rfl, hlt, rfl⟩ | ⟨ea, m, -, -, rfl⟩ := commitTo_ok h
  · rfl
  · rfl
  · have hk : k = 1 := by
      have hne : k ≠ 0 := fun e => ho (e ▸ rfl)
      bv_omega
    rw [hk, State.specialWrite_one, State.setSp_pc]
  · rfl

end Sys2Proof.Machine

/-! ## The cycle shape of each group of instructions -/

namespace Sys2Proof.Claims

open Sys2Proof.Machine

variable {make : Width → Operand → Instr} {make₂ : Width → Operand → Operand → Instr}

theorem exec_testOneMakers (h : make ∈ testOneMakers) (w : Width) (a : Operand) (s : State) :
    ∃ op c, exec (make w a) s = testOne op w a s c := by
  simp only [testOneMakers, List.mem_cons, List.not_mem_nil, or_false] at h
  rcases h with rfl | rfl | rfl | rfl <;> simp only [exec] <;> exact ⟨_, _, rfl⟩

theorem exec_testTwoMakers (h : make₂ ∈ testTwoMakers) (w : Width) (a b : Operand) (s : State) :
    ∃ op c, exec (make₂ w a b) s = testTwo op w a b s c := by
  simp only [testTwoMakers, List.mem_cons, List.not_mem_nil, or_false] at h
  rcases h with rfl | rfl | rfl | rfl | rfl | rfl | rfl | rfl | rfl | rfl | rfl | rfl | rfl | rfl | rfl | rfl <;>
    simp only [exec] <;> exact ⟨_, _, rfl⟩

/-- Every instruction of arity 1 is a cycle of one operand or a host escape. -/
theorem exec_oneOperandMakers (h : make ∈ oneOperandMakers) (w : Width) (a : Operand) (s : State) :
    (∃ op dispatch, exec (make w a) s = cycleOne params op w a s dispatch) ∨
      ∃ kind, exec (make w a) s = hostEscape params kind w a s := by
  rw [oneOperandMakers, List.mem_append, List.mem_append] at h
  obtain (h | h) | h := h
  · obtain ⟨op, g, he⟩ := exec_aluOneMakers h w a s
    exact .inl ⟨op, _, he⟩
  · obtain ⟨op, c, he⟩ := exec_testOneMakers h w a s
    exact .inl ⟨op, _, he⟩
  · simp only [List.mem_cons, List.not_mem_nil, or_false] at h
    obtain (rfl | rfl | rfl | rfl | rfl | rfl) := h <;> simp only [exec]
    · exact .inl ⟨_, _, rfl⟩
    · exact .inl ⟨_, _, rfl⟩
    · exact .inl ⟨_, _, rfl⟩
    · exact .inr ⟨.breakpoint, rfl⟩
    · exact .inr ⟨.interrupt, rfl⟩
    · exact .inl ⟨_, _, rfl⟩

/-- Every instruction of arity 2 is a cycle of two operands or XCHG's. -/
theorem exec_twoOperandMakers (h : make₂ ∈ twoOperandMakers) (w : Width) (a b : Operand) (s : State) :
    (∃ op dispatch, exec (make₂ w a b) s = cycleTwo params op w a b s dispatch) ∨
      ∃ op, exec (make₂ w a b) s = cycleExchange params op w a b s := by
  rw [twoOperandMakers, List.mem_append, List.mem_append, List.mem_append] at h
  obtain ((h | h) | h) | h := h
  · obtain ⟨op, g, he⟩ := exec_aluTwoMakers h w a b s
    exact .inl ⟨op, _, he⟩
  · obtain ⟨op, c, he⟩ := exec_testTwoMakers h w a b s
    exact .inl ⟨op, _, he⟩
  · cases List.mem_singleton.mp h
    exact .inr ⟨_, rfl⟩
  · obtain ⟨⟨n, make⟩, hrow, rfl⟩ := List.mem_map.mp h
    obtain ⟨-, -, he⟩ := unassignedMakers_row hrow w a b s
    rw [noOperation] at he
    exact .inl ⟨n, _, he⟩

/-- The ALU instructions of arity 2 that have a result for all operands. -/
theorem exec_aluTotalMakers (h : make₂ ∈ aluTotalMakers) (w : Width) (a b : Operand) (s : State) :
    ∃ op, ∃ g : Word → Word → Word, exec (make₂ w a b) s = aluTwo op w a b s fun x y => .ok (g x y) := by
  simp only [aluTotalMakers, List.mem_cons, List.not_mem_nil, or_false] at h
  rcases h with rfl | rfl | rfl | rfl | rfl | rfl | rfl | rfl | rfl | rfl | rfl <;>
    simp only [exec] <;> exact ⟨_, _, rfl⟩

/-- BSET, BCLR, SHL and SHR have a result for every B below 32. -/
theorem exec_aluRangedMakers (h : make₂ ∈ aluRangedMakers) (w : Width) (a b : Operand) (s : State) :
    ∃ op g, exec (make₂ w a b) s = aluTwo op w a b s g ∧ ∀ x y : Word, y.toNat < 32 → ∃ r, g x y = .ok r := by
  simp only [aluRangedMakers, List.mem_cons, List.not_mem_nil, or_false] at h
  rcases h with rfl | rfl | rfl | rfl <;>
    exact ⟨_, _, rfl, fun x y hy => ⟨_, if_neg (Nat.not_le.mpr hy)⟩⟩

theorem aluDiv_of_ne_zero (x : Word) {y : Word} (h : y.toNat ≠ 0) : aluDiv x y = .ok (x / y) :=
  if_neg fun hy => h (by rw [hy]; rfl)

/-! ## The obligations -/

/-- Settles O20: the cycle ends at the operand that does not resolve, before dispatch, in every cycle shape. -/
theorem operandFaultsEndTheCycle : Obligations.OperandFaultsEndTheCycle := by
  have two : ∀ make ∈ twoOperandMakers, ∀ (w : Width) (a b : Operand) (s : State) (f : ModelFault),
      resolveTwo params s.fetched w a b = .error f → exec (make w a b) s = .next (faultedAt s f) := by
    intro make hmake w a b s f h
    obtain ⟨op, dispatch, he⟩ | ⟨op, he⟩ := exec_twoOperandMakers hmake w a b s
    · exact he.trans (cycleTwo_of_error h)
    · exact he.trans (cycleExchange_of_error h)
  refine ⟨fun make hmake w a s f h => ?_, fun make hmake w a b s f => ⟨fun h => ?_, fun ra ha hb => ?_⟩⟩
  · obtain ⟨op, dispatch, he⟩ | ⟨kind, he⟩ := exec_oneOperandMakers hmake w a s
    · exact he.trans (cycleOne_of_error h)
    · exact he.trans (hostEscape_of_error h)
  · exact two make hmake w a b s f (resolveTwo_of_errorA h)
  · exact two make hmake w a b s f (resolveTwo_of_errorB ha hb)

/-- Settles O14: the operand decoded at the descriptor holds the bytes that the read gives. -/
theorem literalForm : Obligations.LiteralForm := by
  intro s ip0 off w v hd
  obtain ⟨c, hc⟩ := exists_code (base := 0) (Nat.zero_le _) (hd.trans_eq (Nat.zero_add _).symm)
  rw [operandAt_literal (hc.trans (Nat.zero_add _))]
  refine ⟨fun x hx => ?_, fun htop => ?_, rfl⟩
  · obtain ⟨hin, rfl⟩ := memRead_ok hx
    simp only [resolve, afterDescriptor, hin, Bool.false_eq_true, if_false, operandLen]
  · have hcross := crossesTop_eq_true_iff.mpr
      (show 65536 < (ip0 + BitVec.ofNat 16 off + 1).toNat + w.bytes by omega)
    simp only [resolve, afterDescriptor, hcross, if_true]

/-- Settles O15: the address is read as two bytes at every width, and then accessed. -/
theorem literalAddressForm : Obligations.LiteralAddressForm := by
  intro s ip0 off w v hlo hhi
  obtain ⟨c, hc⟩ := exists_code hlo hhi
  rw [operandAt_literalPtr hc]
  refine ⟨fun htop => ?_, fun e he => ?_⟩
  · have hcross : crossesTop params (afterDescriptor ip0 off) 2 = true :=
      crossesTop_eq_true_iff.mpr (by rw [afterDescriptor, htop]; decide)
    have ha : afterDescriptor ip0 off = 0xFFFF := BitVec.eq_of_toNat_eq htop
    exact ha ▸ access_of_pointerAddr_error (pointerAddr_literalPtr_of_crossesTop hcross)
  · obtain ⟨hin, rfl⟩ := memRead_ok he
    rw [BitVec.setWidth_ofNat_of_le (by decide)]
    exact access_through w v (pointerAddr_literalPtr hin)

/-- Settles O16: a register is read and written at its own bytes of the file. -/
theorem registerForm : Obligations.RegisterForm := by
  intro s ip0 off w v r hd
  have hw : w.bytes ≤ 4 := by cases w <;> decide
  rw [operandAt_reg hd, ← regBytes_eq_map]
  exact ⟨rfl, s.regWrite r w.bytes v, rfl, rfl, regByte_regWrite s r w.bytes v hw,
    State.regWrite_frame s r w.bytes v⟩

/-- Settles O17: the address does not depend on the width. -/
theorem registerPointerForm : Obligations.RegisterPointerForm := by
  intro s ip0 off w v r ea hd hea
  rw [operandAt_regPtr hd]
  exact access_through w v (by rw [pointerAddr, setWidth_regRead_two hea])

/-- Settles O19: codes 0 and 1 are the two addresses, and every other code is a fault of the address. -/
theorem specialPointerForm : Obligations.SpecialPointerForm := by
  intro s ip0 off w v d ea hd
  refine ⟨?_, fun hlo => ?_⟩
  · rintro (⟨rfl, rfl⟩ | ⟨rfl, rfl⟩)
    · rw [operandAt_specialPtr (c := 0) (by rw [hd]; rfl)]
      exact access_through w v (pointerAddr_specialPtr (by decide))
    · rw [operandAt_specialPtr (c := 1) (by rw [hd]; rfl)]
      exact access_through w v (pointerAddr_specialPtr (by decide))
  · have hlt := d.isLt
    have hc : (BitVec.ofNat 5 (d.toNat - 0xE0)).toNat = d.toNat - 0xE0 := by
      rw [BitVec.toNat_ofNat]
      omega
    rw [operandAt_specialPtr (c := BitVec.ofNat 5 (d.toNat - 0xE0)) (by rw [hd, hc]; omega)]
    exact access_of_pointerAddr_error (pointerAddr_specialPtr_of_bad (by rw [hc]; omega))

/-- Settles O31: A's destination has been resolved, so the first commit succeeds, and the second decides the end. -/
theorem exchangeCommitsTwice : Obligations.ExchangeCommitsTwice := by
  refine fun w a b s => ⟨hasOpcode_opcode _, fun ra rb ha hb hs => ?_⟩
  obtain ⟨t, ht⟩ := commitTo_of_resolve rb.val ha
  obtain ⟨hfault, hend⟩ := cycleExchange_of_commit (op := 32) (resolveTwo_of ha hb) rfl hs ht
  refine ⟨t, ht, hfault, fun u hu => ?_⟩
  obtain ⟨p, he⟩ := hend u hu
  exact he

/-- Settles O48: in each cycle shape the suppressed writeback leaves the state that dispatch left. -/
theorem suppressedCyclesCommitNothing : Obligations.SuppressedCyclesCommitNothing := by
  intro w a b s ra rb hs ha
  refine ⟨fun make hmake => ?_, fun x hx => ?_, fun hb => ⟨fun make hmake => ?_, fun make hmake hlt => ?_,
    fun hne => ?_⟩⟩
  · obtain ⟨op, g, he⟩ := exec_aluOneMakers hmake w a s
    exact he.trans (cycleOne_suppressed (d := ⟨s.fetched, g ra.val, false⟩) hs ha rfl)
  · exact cycleOne_suppressed (dispatch := fun t _ => popValue params t w) hs ha (popValue_of hx)
  · obtain rfl | hmake := List.mem_cons.mp hmake
    · exact cycleExchange_suppressed hs (resolveTwo_of ha hb)
    · obtain ⟨op, g, he⟩ := exec_aluTotalMakers hmake w a b s
      exact he.trans (aluTwo_suppressed hs (resolveTwo_of ha hb) rfl)
  · obtain ⟨op, g, he, hg⟩ := exec_aluRangedMakers hmake w a b s
    obtain ⟨x, hx⟩ := hg ra.val rb.val hlt
    exact he.trans (aluTwo_suppressed hs (resolveTwo_of ha hb) hx)
  · exact aluTwo_suppressed hs (resolveTwo_of ha hb) (aluDiv_of_ne_zero ra.val hne)

/-- Settles O50: one lemma for each part of the state that a commit can reach. -/
theorem commitFrame : Obligations.CommitFrame := by
  intro s t ip0 off w v o h
  obtain ⟨hnext, hactive, hbrk, hint, hfaulted, hstopped, hevents, hanswers⟩ := commitTo_rest h
  exact ⟨commitTo_destinationFrame h, commitTo_pc_frame h, hnext, hactive, hfaulted,
    hbrk, hint, hstopped, hevents, hanswers⟩

end Sys2Proof.Claims
end

section
/-! PROOF. The family 41_cycle: what a cycle outside the result band does with the latch (R143, R231, R255), MOV as an
instruction that commits its result (R136, R192), XCHG of two registers (R137, R191), JMP and CALL (R139, R151, R152). -/

namespace Sys2Proof.Machine

variable {P : Params} {s t : State} {x : Bool} {o : Option Operation} {op : BitVec 6} {w : Width} {a b : Operand}

/-! ## The latch alone -/

/-- The state with another value in the latch `skip_active` (R31). -/
def State.setLatch (s : State) (x : Bool) : State := { s with skipActive := x }

/-- What dispatch yields, with another value in the latch. -/
def Dispatched.setLatch (d : Dispatched) (x : Bool) : Dispatched := { d with st := d.st.setLatch x }

@[simp] theorem State.setLatch_pc : (s.setLatch x).pc = s.pc := rfl
@[simp] theorem State.setLatch_sp : (s.setLatch x).sp = s.sp := rfl
@[simp] theorem State.setLatch_mem : (s.setLatch x).mem = s.mem := rfl
@[simp] theorem State.setLatch_nextAnswer : (s.setLatch x).nextAnswer = s.nextAnswer := rfl
@[simp] theorem State.setLatch_fetched : (s.setLatch x).fetched = s.fetched.setLatch x := rfl
@[simp] theorem State.setLatch_emit (e : HostEvent) : (s.setLatch x).emit e = (s.emit e).setLatch x := rfl
@[simp] theorem State.setLatch_hookInstalled (kind : HostKind) :
    (s.setLatch x).hookInstalled kind = s.hookInstalled kind := by cases kind <;> rfl

/-- The resolver does not see the latch (R101). -/
@[simp] theorem resolve_setLatch (ip0 : Addr) (off : Nat) :
    resolve P (s.setLatch x) ip0 off w a = resolve P s ip0 off w a := by
  cases a <;> rfl

@[simp] theorem resolveTwo_setLatch : resolveTwo P (s.setLatch x) w a b = resolveTwo P s w a b := by
  simp only [resolveTwo, resolve_setLatch, State.setLatch_pc]

/-- The end of a cycle overwrites the latch (R140). -/
@[simp] theorem finish_setLatch (n : Nat) (p : Bool) : finish P n p (s.setLatch x) = finish P n p s := by
  unfold finish advance
  split <;> rfl

/-! ## Dispatch carries the latch through -/

theorem resultOnly_setLatch (r : Except ModelFault Word) :
    resultOnly (t.setLatch x) r = (resultOnly t r).map (·.setLatch x) := by
  cases r <;> rfl

theorem skipOnly_setLatch (c : Except ModelFault Bool) :
    skipOnly (t.setLatch x) c = (skipOnly t c).map (·.setLatch x) := by
  cases c <;> rfl

theorem returnFrom_setLatch : returnFrom P (t.setLatch x) = (returnFrom P t).map (·.setLatch x) := by
  simp only [returnFrom, State.setLatch_mem, State.setLatch_sp]
  cases memRead P t.mem t.sp P.callFrameBytes <;> rfl

theorem popValue_setLatch : popValue P (t.setLatch x) w = (popValue P t w).map (·.setLatch x) := by
  simp only [popValue, State.setLatch_mem, State.setLatch_sp]
  cases memRead P t.mem t.sp w.bytes <;> rfl

theorem callTo_setLatch (n : Nat) (v : Word) :
    callTo P (t.setLatch x) n v = (callTo P t n v).map (·.setLatch x) := by
  simp only [callTo, State.setLatch_mem, State.setLatch_sp, State.setLatch_pc]
  cases memWrite P t.mem (t.sp - BitVec.ofNat 16 P.callFrameBytes) P.callFrameBytes
    ((t.pc + BitVec.ofNat 16 n).setWidth 32) <;> rfl

theorem pushValue_setLatch (v : Word) :
    pushValue P (t.setLatch x) w v = (pushValue P t w v).map (·.setLatch x) := by
  simp only [pushValue, State.setLatch_mem, State.setLatch_sp]
  cases memWrite P t.mem (t.sp - BitVec.ofNat 16 w.bytes) w.bytes v <;> rfl

/-- No operation's dispatch reads the latch or writes it (R135, R143). -/
theorem dispatch_setLatch (o : Option Operation) (n : Nat) (y z : Word) :
    dispatch P o w n (t.setLatch x) y z = (dispatch P o w n t y z).map (·.setLatch x) := by
  match o with
  | none => rfl
  | some (.zero .nop) => rfl
  | some (.zero .ret) => exact returnFrom_setLatch
  | some (.one k) =>
    cases k <;> simp only [dispatch, dispatchOne]
    case jmp | brk | int => rfl
    case call => exact callTo_setLatch n y
    case push => exact pushValue_setLatch y
    case pop => exact popValue_setLatch
    case jz | snz | jnz | sz => exact skipOnly_setLatch _
    case inc | dec | not | neg | bswap => exact resultOnly_setLatch _
  | some (.two k) =>
    cases k <;> simp only [dispatch, dispatchTwo]
    case xchg => rfl
    case je | sne | jne | se | jl | sge | jge | sl | jg | sle | jle | sg | jbs | sbc | jbc | sbs =>
      exact skipOnly_setLatch _
    case add | sub | mul | div | and | nand | or | nor | xor | bset | bclr | shl | shr | rol | ror | mov =>
      exact resultOnly_setLatch _

/-! ## Cycles outside the result band -/

/-- Two cycles that start with different latches end alike, or both in a fault or a stop whose state keeps the latch: `x`
in the second (R231, R255). -/
def LatchOnly (x : Bool) (r r' : Result) : Prop :=
  r' = r ∨ ∃ t, (t.faulted ≠ none ∨ t.stopped ≠ none) ∧ r = .next t ∧ r' = .next (t.setLatch x)

theorem raise_latchOnly (s : State) (x : Bool) (f : ModelFault) :
    LatchOnly x (.next (s.raise f)) (.next ((s.setLatch x).raise f)) :=
  .inr ⟨s.raise f, .inl nofun, rfl, rfl⟩

/-- A cycle whose steps come to the same, whatever the latch. -/
theorem settle_latchOnly (s : State) (x : Bool) (r : Except ModelFault State) :
    LatchOnly x (settle s r) (settle (s.setLatch x) r) := by
  cases r with
  | ok t => exact .inl rfl
  | error f => exact raise_latchOnly s x f

theorem cycleZero_latchOnly {dispatch : State → Except ModelFault Dispatched}
    (hd : dispatch (s.fetched.setLatch x) = (dispatch s.fetched).map (·.setLatch x)) :
    LatchOnly x (cycleZero P s dispatch) (cycleZero P (s.setLatch x) dispatch) := by
  simp only [cycleZero, State.setLatch_fetched, hd]
  cases dispatch s.fetched with
  | error f => exact raise_latchOnly s x f
  | ok d => simp only [Except.map, Dispatched.setLatch, finish_setLatch]; exact settle_latchOnly s x _

theorem cycleOne_latchOnly {dispatch : State → Resolved → Except ModelFault Dispatched}
    (hop : inResultBand P op = false)
    (hd : ∀ ra, dispatch (s.fetched.setLatch x) ra = (dispatch s.fetched ra).map (·.setLatch x)) :
    LatchOnly x (cycleOne P op w a s dispatch) (cycleOne P op w a (s.setLatch x) dispatch) := by
  simp only [cycleOne, State.setLatch_fetched, State.setLatch_pc, resolve_setLatch, writeback_outside hop, hd]
  cases resolve P s.fetched s.fetched.pc 0 w a with
  | error f => exact raise_latchOnly s x f
  | ok ra =>
    simp only
    cases dispatch s.fetched ra with
    | error f => exact raise_latchOnly s x f
    | ok d => simp only [Except.map, Dispatched.setLatch, finish_setLatch]; exact settle_latchOnly s x _

theorem cycleTwo_latchOnly {dispatch : State → Resolved → Resolved → Except ModelFault Dispatched}
    (hop : inResultBand P op = false)
    (hd : ∀ ra rb, dispatch (s.fetched.setLatch x) ra rb = (dispatch s.fetched ra rb).map (·.setLatch x)) :
    LatchOnly x (cycleTwo P op w a b s dispatch) (cycleTwo P op w a b (s.setLatch x) dispatch) := by
  simp only [cycleTwo, State.setLatch_fetched, State.setLatch_pc, resolveTwo_setLatch, writeback_outside hop, hd]
  cases resolveTwo P s.fetched w a b with
  | error f => exact raise_latchOnly s x f
  | ok r =>
    simp only
    cases dispatch s.fetched r.1 r.2 with
    | error f => exact raise_latchOnly s x f
    | ok d => simp only [Except.map, Dispatched.setLatch, finish_setLatch]; exact settle_latchOnly s x _

theorem exchange_outside {ip0 : Addr} {n : Nat} {y z : Word} {sup : Bool} (hop : inResultBand P op = false) :
    exchange P op ip0 w a n y z sup s = .ok (s, false) := by
  simp [exchange, hop]

theorem cycleExchange_latchOnly (hop : inResultBand P op = false) :
    LatchOnly x (cycleExchange P op w a b s) (cycleExchange P op w a b (s.setLatch x)) := by
  simp only [cycleExchange, State.setLatch_fetched, resolveTwo_setLatch, exchange_outside hop, finish_setLatch]
  exact settle_latchOnly s x _

/-- The three answers of a host, and the missing hook (R160, R161, R236, R255). -/
theorem answerEscape_latchOnly {kind : HostKind} {code : Word} {goOn : State → Except ModelFault State}
    (hg : ∀ t, goOn (t.setLatch x) = goOn t) :
    LatchOnly x (answerEscape kind code s goOn) (answerEscape kind code (s.setLatch x) goOn) := by
  simp only [answerEscape, State.setLatch_hookInstalled, State.setLatch_nextAnswer, State.setLatch_fetched,
    State.setLatch_emit, State.setLatch_pc, hg]
  split
  · match s.nextAnswer with
    | .continue => exact settle_latchOnly _ x _
    | .stop => exact .inr ⟨_, .inr (Option.some_ne_none _), rfl, rfl⟩
    | .reenter => exact raise_latchOnly _ x _
  · exact raise_latchOnly s x _

theorem hostEscape_latchOnly {kind : HostKind} :
    LatchOnly x (hostEscape P kind w a s) (hostEscape P kind w a (s.setLatch x)) := by
  simp only [hostEscape, State.setLatch_fetched, State.setLatch_pc, resolve_setLatch]
  cases resolve P s.fetched s.fetched.pc 0 w a with
  | error f => exact raise_latchOnly s x f
  | ok ra => exact answerEscape_latchOnly fun t => by rw [finish_setLatch]

theorem cycleDecoded_latchOnly (hop : inResultBand P op = false) (operands : Operands) :
    LatchOnly x (cycleDecoded P o op w s operands) (cycleDecoded P o op w (s.setLatch x) operands) := by
  cases operands with
  | zero => exact cycleZero_latchOnly (dispatch := fun t => dispatch P o w 0 t 0 0) (dispatch_setLatch o 0 0 0)
  | one a =>
    simp only [cycleDecoded]
    split
    · exact hostEscape_latchOnly
    · exact cycleOne_latchOnly hop fun ra => dispatch_setLatch o _ _ _
  | two a b =>
    simp only [cycleDecoded]
    split
    · exact cycleExchange_latchOnly hop
    · exact cycleTwo_latchOnly hop fun ra rb => dispatch_setLatch o _ _ _

/-- One width and one list of operands serve for every state the instruction is run from. -/
theorem exec_eq_cycleDecoded_of_all (i : Instr) :
    ∃ w operands, ∀ s, exec i s = cycleDecoded params i.operation i.opcode w s operands := by
  obtain ⟨-, ho, operands, hm, -, -⟩ := Laws.OpcodeRow.statement i
  rw [← ho] at hm ⊢
  exact ⟨_, operands, fun s => exec_makeInstr s hm⟩

theorem exec_latchOnly {i : Instr} (hop : inResultBand params i.opcode = false) (s : State) (x : Bool) :
    LatchOnly x (exec i s) (exec i (s.setLatch x)) := by
  obtain ⟨w, operands, he⟩ := exec_eq_cycleDecoded_of_all i
  rw [he, he]
  exact cycleDecoded_latchOnly hop operands

/-- The result band is 11 to 33 (R82). -/
theorem inResultBand_eq_false_iff (op : BitVec 6) :
    inResultBand params op = false ↔ op.toNat ≤ 10 ∨ 34 ≤ op.toNat := by
  revert op; decide

/-- A cycle that faults or is stopped keeps the latch (R231, R255). -/
theorem CycleEnd.skipActive_of_ended (h : CycleEnd P o s t) (hf : s.faulted = none) (hs : s.stopped = none)
    (he : t.faulted ≠ none ∨ t.stopped ≠ none) : t.skipActive = s.skipActive := by
  cases h with
  | faulted f => rfl
  | reentered hk code => rfl
  | stopped hk code => rfl
  | continued hk code n =>
    rw [finish_faulted, finish_stopped] at he
    exact he.elim (absurd hf) (absurd hs)
  | completed p hd hu =>
    obtain ⟨-, hdf, hds⟩ := dispatch_keeps hd
    obtain ⟨-, -, -, huf, hus, -, -⟩ := hu.rest
    rw [finish_faulted, finish_stopped, huf, hus, hdf, hds] at he
    exact he.elim (absurd hf) (absurd hs)

/-! ## A cycle of the result band that is not suppressed -/

theorem aluTwo_commits {g : Word → Word → Except ModelFault Word} {ra rb : Resolved} {v : Word} {u : State}
    (hop : inResultBand params op = true) (hs : s.skipActive = false)
    (hr : resolveTwo params s.fetched w a b = .ok (ra, rb)) (hv : g ra.val rb.val = .ok v)
    (hu : commitTo params s.fetched s.fetched.pc 0 w v a = .ok u) :
    aluTwo op w a b s g = .next (finish params (ra.len + rb.len) (writesPc a) u) :=
  cycleTwo_completes (d := ⟨s.fetched, v, false⟩) hr (by rw [hv]; rfl) (by rw [hs]; exact writeback_commits hop hu)

/-! ## Two registers that share no byte -/

/-- A register reads as before when the bytes written are none of its own (R22, R23). -/
theorem State.regRead_regWrite_of_disjoint (s : State) (p q : BitVec 5) (n k : Nat) (v : Word)
    (h : p.toNat + n ≤ q.toNat ∨ q.toNat + k ≤ p.toNat) : (s.regWrite q k v).regRead p n = s.regRead p n := by
  have hbytes : regBytes (s.regWrite q k v).regs p.toNat n = regBytes s.regs p.toNat n := by
    rw [regBytes_eq_map, regBytes_eq_map]
    refine List.map_congr_left fun i hi => State.regWrite_frame s q k v _ ?_
    have hlt := List.mem_range.mp hi
    omega
  rw [State.regRead, State.regRead, hbytes]

/-- A value that was read at a width is written and read back whole at that width (R22). -/
theorem State.regRead_regWrite_of_lt (s : State) (c : BitVec 5) {v : Word} (h : v.toNat < 2 ^ w.bits) :
    (s.regWrite c w.bytes v).regRead c w.bytes = v := by
  have hw : w.bytes ≤ 4 := by cases w <;> decide
  rw [State.regRead_regWrite s c w.bytes v hw, ← two_pow_bits, Nat.mod_eq_of_lt h, BitVec.ofNat_toNat,
    BitVec.setWidth_eq]

/-! ## JMP and CALL -/

/-- The address a jump takes from a word: its low 16 bits (R151). -/
theorem jumpTo_eq (t : State) (v : Word) :
    jumpTo t v = ⟨{ t with pc := BitVec.ofNat 16 (v.toNat % 2 ^ 16) }, 0, true⟩ := by
  have hpc : v.setWidth 16 = BitVec.ofNat 16 (v.toNat % 2 ^ 16) := BitVec.eq_of_toNat_eq (by simp)
  rw [jumpTo, hpc]
  rfl

theorem callTo_of {n : Nat} {v : Word} {m : Memory}
    (h : memWrite P s.mem (s.sp - BitVec.ofNat 16 P.callFrameBytes) P.callFrameBytes
      ((s.pc + BitVec.ofNat 16 n).setWidth 32) = .ok m) :
    callTo P s n v = .ok (jumpTo ((s.setSp (s.sp - BitVec.ofNat 16 P.callFrameBytes)).setMem m) v) := by
  simp only [callTo, h]

theorem callTo_of_error {n : Nat} {v : Word} {f : ModelFault}
    (h : memWrite P s.mem (s.sp - BitVec.ofNat 16 P.callFrameBytes) P.callFrameBytes
      ((s.pc + BitVec.ofNat 16 n).setWidth 32) = .error f) : callTo P s n v = .error f := by
  simp only [callTo, h]

/-- The return address as a number (R152). -/
theorem returnAddress_eq (pc : Addr) (n : Nat) :
    (pc + 1 + BitVec.ofNat 16 n).setWidth 32 = BitVec.ofNat 32 ((pc.toNat + 1 + n) % 2 ^ 16) := by
  apply BitVec.eq_of_toNat_eq
  simp

/-- From SP = 1 the two bytes below SP are at 0xFFFF and past the top (R54, R152). -/
theorem callTo_of_sp_one {n : Nat} {v : Word} (h : s.sp = 1) :
    callTo params s n v = .error (.crossTopAccess 0xFFFF 2) := by
  have hframe : s.sp - BitVec.ofNat 16 params.callFrameBytes = 0xFFFF := by rw [h]; rfl
  apply callTo_of_error
  rw [hframe]
  exact memWrite_of_crossesTop s.mem _ rfl

/-- From every other SP the two bytes below it are inside memory. -/
theorem crossesTop_frame_eq_false {sp : Addr} (h : sp ≠ 1) : crossesTop params (sp - 2) 2 = false := by
  rw [crossesTop_eq_false_iff]
  bv_omega

theorem cycleOne_of_dispatch_error {dispatch : State → Resolved → Except ModelFault Dispatched} {ra : Resolved}
    {f : ModelFault} (hra : resolve P s.fetched s.fetched.pc 0 w a = .ok ra) (hd : dispatch s.fetched ra = .error f) :
    cycleOne P op w a s dispatch = .next (s.raise f) := by
  simp only [cycleOne, hra, hd, settle]

/-- A cycle of one operand that commits nothing ends as dispatch does, whatever the latch (R136, R143). -/
theorem cycleOne_outside {dispatch : State → Resolved → Except ModelFault Dispatched} {ra : Resolved} {d : Dispatched}
    (hop : inResultBand P op = false) (hra : resolve P s.fetched s.fetched.pc 0 w a = .ok ra)
    (hd : dispatch s.fetched ra = .ok d) :
    cycleOne P op w a s dispatch = .next (finish P ra.len d.pcWritten d.st) :=
  cycleOne_completes hra hd (writeback_outside hop)

end Sys2Proof.Machine

namespace Sys2Proof.Claims

open Sys2Proof.Machine

/-- An ALU instruction of arity 2 whose operands resolve commits its result: A's destination was resolved in the same
state (R136). -/
theorem commitsResult_of_aluTwo {i : Instr} {op : BitVec 6} {w : Width} {a b : Operand} {s : State}
    {g : Word → Word → Except ModelFault Word} {ra rb : Resolved} {v : Word} (he : exec i s = aluTwo op w a b s g)
    (hop : inResultBand params op = true) (ha : readsA s w a ra) (hb : readsB s w ra b rb)
    (hv : g ra.val rb.val = .ok v) : commitsResult i s w a (ra.len + rb.len) v := by
  intro hs
  obtain ⟨u, hu⟩ := commitTo_of_resolve v ha
  exact ⟨u, hu, he.trans (aluTwo_commits hop hs (resolveTwo_of ha hb) hv hu)⟩

/-! ## The obligations -/

/-- Settles O49: outside the result band the latch decides nothing, and a cycle that does not complete keeps it. -/
theorem dispatchEffectsIgnoreTheLatch : Obligations.DispatchEffectsIgnoreTheLatch := by
  intro i s t u x hi ht hu
  have hu' : exec i (s.setLatch x) = .next u := hu
  have hkeeps : (t.faulted ≠ none ∨ t.stopped ≠ none) → s.faulted = none → s.stopped = none →
      t.skipActive = s.skipActive := fun he hf hs => (exec_cycleEnd ht).skipActive_of_ended hf hs he
  obtain heq | ⟨t', hend, ht', hu''⟩ := exec_latchOnly ((inResultBand_eq_false_iff _).mpr hi) s x
  · obtain rfl : u = t := by
      rw [ht, hu'] at heq
      exact Host.Outcome.next.inj heq
    refine ⟨fun _ _ => rfl, rfl, fun he hf hs => ⟨hkeeps he hf hs, ?_⟩⟩
    exact (exec_cycleEnd hu').skipActive_of_ended hf hs he
  · cases ht.symm.trans ht'
    cases hu'.symm.trans hu''
    refine ⟨fun hf hs => ?_, rfl, fun he hf hs => ⟨hkeeps he hf hs, rfl⟩⟩
    exact hend.elim (absurd hf) (absurd hs)

/-- Settles O30: the result is B as it was resolved; a fault of A ends MOV like every other instruction of two operands. -/
theorem moveResult : Obligations.MoveResult := by
  have hmov : Instr.mov ∈ twoOperandMakers := by simp [twoOperandMakers, aluTwoMakers, aluTotalMakers]
  refine ⟨fun w a b s => ⟨hasOpcode_opcode _, fun ra rb ha hb => ?_⟩, fun w a b s f h => ?_⟩
  · rw [BitVec.ofNat_toNat, BitVec.setWidth_eq]
    exact commitsResult_of_aluTwo (op := 33) (g := fun _ y => .ok y) rfl rfl ha hb rfl
  · obtain ⟨hA, -⟩ := operandFaultsEndTheCycle.2 .mov hmov w a b s f
    exact hA h

/-- Settles O32: the first commit leaves memory alone, so that the second decodes the same register, and neither write
touches the bytes of the other. -/
theorem exchangeSwapsRegisters : Obligations.ExchangeSwapsRegisters := by
  intro w p q s hs hdisj hq
  have hrp := regRead_lt s p w
  have hrq := regRead_lt s q w
  obtain ⟨-, hcommits⟩ := exchangeCommitsTwice w (.reg p) (.reg q) s
  obtain ⟨t, ht, -, hend⟩ := hcommits ⟨s.regRead p w.bytes, 1, none⟩ ⟨s.regRead q w.bytes, 1, none⟩ rfl rfl hs
  obtain rfl : (atIp0 s).regWrite p w.bytes (s.regRead q w.bytes) = t := Except.ok.inj ht
  have hb : operandAt params s.mem (s.pc + 1 + BitVec.ofNat 16 1) w = .reg q :=
    operandAt_reg (by rw [BitVec.add_assoc]; exact hq)
  have hexec := hend _ ((congrArg (commitTo params _ (s.pc + 1) 1 w (s.regRead p w.bytes)) hb).trans rfl)
  refine ⟨_, hexec, ?_, ?_, fun j hjp hjq => ?_, rfl, rfl, ?_, rfl, rfl, rfl, rfl, rfl, rfl⟩
  · refine (State.regRead_regWrite_of_disjoint _ p q _ _ _ hdisj).trans ?_
    exact State.regRead_regWrite_of_lt _ p hrq
  · exact State.regRead_regWrite_of_lt _ q hrp
  · refine (State.regWrite_frame _ q _ _ j hjq).trans ?_
    exact State.regWrite_frame _ p _ _ j hjp
  · exact BitVec.add_assoc s.pc 1 2

/-- Settles O35: the jump is dispatch's own effect, which no writeback follows, and step 6 advances from its target. -/
theorem jumpLandsPastItsOperand : Obligations.JumpLandsPastItsOperand := by
  refine fun w a s => ⟨hasOpcode_opcode _, fun ra ha => ?_⟩
  have h := cycleOne_outside (op := 2) (dispatch := fun t ra => .ok (jumpTo t ra.val)) rfl ha rfl
  rw [jumpTo_eq] at h
  exact h

/-- Settles O36: the store below SP passes the top from SP = 1 only, and the jump follows it. -/
theorem callPushesTheReturnAddress : Obligations.CallPushesTheReturnAddress := by
  refine fun w a s => ⟨hasOpcode_opcode _, fun ra ha hsp => ?_, fun ra ha hsp => ?_⟩
  · exact cycleOne_of_dispatch_error (op := 3) (dispatch := fun t ra => callTo params t ra.len ra.val)
      ha (callTo_of_sp_one (s := s.fetched) hsp)
  · have hm := memWrite_of_inside s.mem (BitVec.ofNat 32 ((s.pc.toNat + 1 + ra.len) % 2 ^ 16))
      (crossesTop_frame_eq_false hsp)
    refine ⟨_, hm, ?_⟩
    rw [← returnAddress_eq] at hm ⊢
    have h := cycleOne_outside (op := 3) (dispatch := fun t ra => callTo params t ra.len ra.val) rfl ha
      (callTo_of (s := s.fetched) hm)
    rw [jumpTo_eq] at h
    exact h

end Sys2Proof.Claims
end

section
/-! PROOF. The family 42_control_stack_host: RET and the stack (R150 to R155), the host escapes (R160 to R163, R236,
R255), and the frames of the instructions outside the result band and of POP (R164, R200, R231, R235). -/

namespace Sys2Proof.Machine

variable {P : Params} {s t : State} {o : Option Operation} {op : BitVec 6} {w : Width} {a : Operand} {v : Word}
  {ra : Resolved} {f : ModelFault} {kind : HostKind} {d : Dispatched}

/-! ## The cycle shapes, forwards -/

theorem cycleZero_completes {dispatch : State → Except ModelFault Dispatched} (hd : dispatch s.fetched = .ok d) :
    cycleZero P s dispatch = .next (finish P 0 d.pcWritten d.st) := by
  simp only [cycleZero, settle, hd]

theorem cycleZero_of_error {dispatch : State → Except ModelFault Dispatched} (hd : dispatch s.fetched = .error f) :
    cycleZero P s dispatch = .next (s.raise f) := by
  simp only [cycleZero, settle, hd]

/-- A commit that faults undoes what dispatch did (R231). -/
theorem cycleOne_of_commit_error {dispatch : State → Resolved → Except ModelFault Dispatched}
    (hop : inResultBand P op = true) (hs : s.skipActive = false)
    (hra : resolve P s.fetched s.fetched.pc 0 w a = .ok ra) (hd : dispatch s.fetched ra = .ok d)
    (hc : commitTo P d.st s.fetched.pc 0 w d.result a = .error f) :
    cycleOne P op w a s dispatch = .next (s.raise f) := by
  have hlive : (inResultBand P op && !s.skipActive) = true := by rw [hop, hs]; rfl
  simp only [cycleOne, hra, hd, writeback, hlive, if_true, hc, settle]

/-! ## Dispatch of RET, PUSH and POP -/

theorem returnFrom_of (h : memRead P s.mem s.sp P.callFrameBytes = .ok v) :
    returnFrom P s = .ok (jumpTo (s.setSp (s.sp + BitVec.ofNat 16 P.callFrameBytes)) v) := by
  simp only [returnFrom, h]

theorem returnFrom_of_error (h : memRead P s.mem s.sp P.callFrameBytes = .error f) : returnFrom P s = .error f := by
  simp only [returnFrom, h]

theorem pushValue_of {m : Memory} (h : memWrite P s.mem (s.sp - BitVec.ofNat 16 w.bytes) w.bytes v = .ok m) :
    pushValue P s w v = .ok ⟨(s.setSp (s.sp - BitVec.ofNat 16 w.bytes)).setMem m, 0, false⟩ := by
  simp only [pushValue, h]

theorem pushValue_of_error (h : memWrite P s.mem (s.sp - BitVec.ofNat 16 w.bytes) w.bytes v = .error f) :
    pushValue P s w v = .error f := by
  simp only [pushValue, h]

theorem popValue_of_error (h : memRead P s.mem s.sp w.bytes = .error f) : popValue P s w = .error f := by
  simp only [popValue, h]

/-- Everything PUSH's dispatch can do, with the bytes it stores (R154). -/
theorem pushValue_stores (h : pushValue P s w v = .ok d) :
    ∃ m, memWrite P s.mem (s.sp - BitVec.ofNat 16 w.bytes) w.bytes v = .ok m ∧
      d = ⟨(s.setSp (s.sp - BitVec.ofNat 16 w.bytes)).setMem m, 0, false⟩ := by
  cases hm : memWrite P s.mem (s.sp - BitVec.ofNat 16 w.bytes) w.bytes v with
  | error f => cases (pushValue_of_error hm).symm.trans h
  | ok m =>
    cases (pushValue_of hm).symm.trans h
    exact ⟨m, rfl, rfl⟩

/-- Everything CALL's dispatch can do, with the return address it stores (R152). -/
theorem callTo_stores {n : Nat} (h : callTo P s n v = .ok d) :
    ∃ m, memWrite P s.mem (s.sp - BitVec.ofNat 16 P.callFrameBytes) P.callFrameBytes
        ((s.pc + BitVec.ofNat 16 n).setWidth 32) = .ok m ∧
      d = jumpTo ((s.setSp (s.sp - BitVec.ofNat 16 P.callFrameBytes)).setMem m) v := by
  cases hm : memWrite P s.mem (s.sp - BitVec.ofNat 16 P.callFrameBytes) P.callFrameBytes
      ((s.pc + BitVec.ofNat 16 n).setWidth 32) with
  | error f => cases (callTo_of_error hm).symm.trans h
  | ok m =>
    cases (callTo_of hm).symm.trans h
    exact ⟨m, rfl, rfl⟩

/-- Everything POP's dispatch can do, with the value it loads (R155). -/
theorem popValue_loads (h : popValue P s w = .ok d) :
    ∃ x, memRead P s.mem s.sp w.bytes = .ok x ∧ d = ⟨s.setSp (s.sp + BitVec.ofNat 16 w.bytes), x, false⟩ := by
  cases hx : memRead P s.mem s.sp w.bytes with
  | error f => cases (popValue_of_error hx).symm.trans h
  | ok x =>
    cases (popValue_of hx).symm.trans h
    exact ⟨x, rfl, rfl⟩

/-! ## The cycle outside the result band -/

/-- Outside the result band a cycle of one operand ends as dispatch does (R136). -/
theorem cycleOne_outside_next {dispatch : State → Resolved → Except ModelFault Dispatched}
    (hop : inResultBand P op = false) (h : cycleOne P op w a s dispatch = .next t) :
    (∃ f, t = s.raise f) ∨ ∃ ra d, resolve P s.fetched s.fetched.pc 0 w a = .ok ra ∧
      dispatch s.fetched ra = .ok d ∧ t = finish P ra.len d.pcWritten d.st := by
  obtain hf | ⟨ra, d, u, p, hra, hd, hu, rfl⟩ := cycleOne_next h
  · exact .inl hf
  · cases (writeback_outside hop).symm.trans hu
    exact .inr ⟨ra, d, hra, hd, rfl⟩

/-- Outside the result band every instruction but an escape ends in a fault, or as dispatch does: nothing is committed
(R136). -/
theorem cycleDecoded_outside_next {operands : Operands} (hop : inResultBand P op = false) (hk : escapeKind o = none)
    (h : cycleDecoded P o op w s operands = .next t) :
    (∃ f, t = s.raise f) ∨
      ∃ k n x y d p, dispatch P o w k s.fetched x y = .ok d ∧ t = finish P n p d.st := by
  cases operands with
  | zero =>
    simp only [cycleDecoded] at h
    obtain hf | ⟨d, hd, rfl⟩ := cycleZero_next h
    · exact .inl hf
    · exact .inr ⟨_, _, _, _, d, _, hd, rfl⟩
  | one a =>
    simp only [cycleDecoded, hk] at h
    obtain hf | ⟨ra, d, -, hd, rfl⟩ := cycleOne_outside_next hop h
    · exact .inl hf
    · exact .inr ⟨_, _, _, _, d, _, hd, rfl⟩
  | two a b =>
    simp only [cycleDecoded] at h
    split at h
    · rename_i ho
      subst ho
      obtain hf | ⟨ra, rb, u, p, -, hu, rfl⟩ := cycleExchange_next h
      · exact .inl hf
      · cases (exchange_outside hop).symm.trans hu
        exact .inr ⟨0, _, 0, 0, ⟨s.fetched, 0, false⟩, _, rfl, rfl⟩
    · obtain hf | ⟨ra, rb, d, u, p, -, hd, hu, rfl⟩ := cycleTwo_next h
      · exact .inl hf
      · cases (writeback_outside hop).symm.trans hu
        exact .inr ⟨_, _, _, _, d, _, hd, rfl⟩

/-! ## The frame of dispatch -/

/-- Only RET, CALL, PUSH and POP move SP in their dispatch (R27, R135). -/
theorem dispatch_sp {n : Nat} {x y : Word} (h : dispatch P o w n t x y = .ok d) (hr : o ≠ some (.zero .ret))
    (hc : o ≠ some (.one .call)) (hu : o ≠ some (.one .push)) (hp : o ≠ some (.one .pop)) : d.st.sp = t.sp := by
  have result : ∀ {r : Except ModelFault Word}, resultOnly t r = .ok d → d.st.sp = t.sp :=
    fun hd => congrArg State.sp (resultOnly_ok hd)
  have test : ∀ {c : Except ModelFault Bool}, skipOnly t c = .ok d → d.st.sp = t.sp := by
    intro c hd
    obtain ⟨x, hx⟩ := skipOnly_ok hd
    rw [hx, State.skipIf_sp]
  match o with
  | none => cases h; rfl
  | some (.zero .nop) => cases h; rfl
  | some (.zero .ret) => exact absurd rfl hr
  | some (.one z) =>
    cases z <;> simp only [dispatch, dispatchOne] at h
    case call => exact absurd rfl hc
    case push => exact absurd rfl hu
    case pop => exact absurd rfl hp
    case jmp | brk | int => cases h; rfl
    case inc | dec | not | neg | bswap => exact result h
    case jz | snz | jnz | sz => exact test h
  | some (.two z) =>
    cases z <;> simp only [dispatch, dispatchTwo] at h
    case xchg => cases h; rfl
    case add | sub | mul | div | and | nand | or | nor | xor | bset | bclr | shl | shr | rol | ror | mov =>
      exact result h
    case je | sne | jne | se | jl | sge | jge | sl | jg | sle | jle | sg | jbs | sbc | jbc | sbs => exact test h

/-- What the decided map says of the numbers whose instructions store nothing and write no register. -/
theorem noStore_operation {op : BitVec 6}
    (h : op.toNat ≤ 2 ∨ 7 ≤ op.toNat ∧ op.toNat ≤ 10 ∨ 34 ≤ op.toNat) :
    inResultBand params op = false ∧ escapeKind (params.operation op) = none ∧
      params.operation op ≠ some (.one .call) ∧ params.operation op ≠ some (.one .push) ∧
      params.operation op ≠ some (.one .pop) ∧ (op ≠ 1 → params.operation op ≠ some (.zero .ret)) := by
  revert op; decide

/-! ## The host escapes -/

theorem hostEscape_without_hook (hra : resolve P s.fetched s.fetched.pc 0 w a = .ok ra)
    (hk : s.hookInstalled kind = false) :
    hostEscape P kind w a s = .next (s.raise (.hostHookMissing kind)) := by
  simp only [hostEscape, hra, answerEscape, hk, Bool.false_eq_true, if_false]

section answered
variable (hra : resolve P s.fetched s.fetched.pc 0 w a = .ok ra) (hk : s.hookInstalled kind = true)
include hra hk

theorem hostEscape_continued (hans : s.nextAnswer = .continue) :
    hostEscape P kind w a s = .next (finish P ra.len false (s.fetched.emit ⟨kind, ra.val, s.pc⟩)) := by
  simp only [hostEscape, hra, answerEscape, hk, if_true, hans, settle]

theorem hostEscape_stopped (hans : s.nextAnswer = .stop) :
    hostEscape P kind w a s =
      .next ((s.fetched.emit ⟨kind, ra.val, s.pc⟩).setStopped (some ⟨kind, ra.val, s.pc⟩)) := by
  simp only [hostEscape, hra, answerEscape, hk, if_true, hans]

theorem hostEscape_reentered (hans : s.nextAnswer = .reenter) :
    hostEscape P kind w a s = .next ((s.emit ⟨kind, ra.val, s.pc⟩).raise .reentrantCycle) := by
  simp only [hostEscape, hra, answerEscape, hk, if_true, hans]

end answered

/-- The frame of an escape, whatever the host answers (R160, R235). -/
theorem hostEscape_frame (h : hostEscape P kind w a s = .next t) :
    t.regs = s.regs ∧ t.mem = s.mem ∧ t.sp = s.sp ∧ t.hookBrk = s.hookBrk ∧ t.hookInt = s.hookInt ∧
      (t.events = s.events ∨ ∃ e, t.events = s.events ++ [e] ∧ e.pcAtFetch = s.pc) := by
  obtain ⟨f, rfl⟩ | ⟨ra, -, -, ⟨-, rfl⟩ | ⟨-, rfl⟩ | ⟨-, rfl⟩⟩ := hostEscape_next h <;> simp

end Sys2Proof.Machine

namespace Sys2Proof.Claims

open Sys2Proof.Machine

variable {s t : State} {i : Instr} {w : Width} {a : Operand}

/-! ## The host's side -/

/-- An instruction whose operation has one operand is made by the operation's constructor. -/
theorem made_of_one {z : OneOp} (h : i.operation = some (.one z)) : ∃ w a, i = z.make w a := by
  obtain ⟨-, -, operands, hm, -, -⟩ := Laws.OpcodeRow.statement i
  rw [h] at hm
  cases operands with
  | zero => cases hm
  | one a => exact ⟨_, a, (Option.some.inj hm).symm⟩
  | two a b => cases hm

/-- An instruction whose operation escapes is BRK or INT. -/
theorem isEscape_of_escapeKind {kind : HostKind} (h : escapeKind i.operation = some kind) : isEscape i := by
  have hz : i.operation = some (.one .brk) ∨ i.operation = some (.one .int) := by
    unfold escapeKind at h
    split at h
    · exact .inl ‹_›
    · split at h
      · exact .inr ‹_›
      · cases h
  obtain ho | ho := hz <;> obtain ⟨w, a, rfl⟩ := made_of_one ho <;> trivial

/-- What dispatch leaves alone: the registers and the host's side. -/
theorem dispatch_frame {P : Params} {o : Option Operation} {n : Nat} {x y : Word} {d : Dispatched}
    (h : dispatch P o w n t x y = .ok d) : d.st.regs = t.regs ∧ hostSideKept t d.st := by
  obtain ⟨-, c, hst⟩ | ⟨pc, sp, m, -, hst⟩ := dispatch_ok h <;> rw [hst] <;> exact ⟨rfl, rfl, rfl, rfl, rfl, rfl⟩

/-- No cycle but that of an escape touches the host's side. -/
theorem exec_hostSideKept (hi : ¬ isEscape i) (h : exec i s = .next t) : hostSideKept s t := by
  cases exec_cycleEnd h with
  | faulted f => exact raise_hostSideKept s f
  | reentered hk code => exact absurd (isEscape_of_escapeKind hk) hi
  | stopped hk code => exact absurd (isEscape_of_escapeKind hk) hi
  | continued hk code n => exact absurd (isEscape_of_escapeKind hk) hi
  | completed p hd hu =>
    obtain ⟨-, hbrk, hint, hstopped, hevents, hanswers⟩ := dispatch_frame hd
    obtain ⟨-, ubrk, uint, -, ustopped, uevents, uanswers⟩ := hu.rest
    simp [hostSideKept, hbrk, hint, hstopped, hevents, hanswers, ubrk, uint, ustopped, uevents, uanswers]

/-! ## Everything a stack instruction can end in -/

theorem exec_push (w : Width) (a : Operand) (s : State) :
    exec (.push w a) s = cycleOne params 4 w a s fun t ra => pushValue params t w ra.val := rfl

theorem exec_call (w : Width) (a : Operand) (s : State) :
    exec (.call w a) s = cycleOne params 3 w a s fun t ra => callTo params t ra.len ra.val := rfl

theorem exec_pop (w : Width) (a : Operand) (s : State) :
    exec (.pop w a) s = cycleOne params 16 w a s fun t _ => popValue params t w := rfl

theorem exec_ret (m : BitVec 2) (s : State) : exec (.ret m) s = cycleZero params s (returnFrom params) := rfl

theorem push_next (h : exec (.push w a) s = .next t) :
    (∃ f, t = faultedAt s f) ∨
    ∃ ra m, readsA s w a ra ∧ memWrite params s.mem (s.sp - BitVec.ofNat 16 w.bytes) w.bytes ra.val = .ok m ∧
      t = completed { atIp0 s with sp := s.sp - BitVec.ofNat 16 w.bytes, mem := m } ra.len := by
  rw [exec_push] at h
  obtain hf | ⟨ra, d, hra, hd, rfl⟩ := cycleOne_outside_next rfl h
  · exact .inl hf
  · obtain ⟨m, hm, rfl⟩ := pushValue_stores hd
    exact .inr ⟨ra, m, hra, hm, rfl⟩

theorem call_next (h : exec (.call w a) s = .next t) :
    (∃ f, t = faultedAt s f) ∨
    ∃ ra m, readsA s w a ra ∧
      memWrite params s.mem (s.sp - 2) 2 ((s.pc + 1 + BitVec.ofNat 16 ra.len).setWidth 32) = .ok m ∧
      t = completed { atIp0 s with pc := ra.val.setWidth 16, sp := s.sp - 2, mem := m } ra.len := by
  rw [exec_call] at h
  obtain hf | ⟨ra, d, hra, hd, rfl⟩ := cycleOne_outside_next rfl h
  · exact .inl hf
  · obtain ⟨m, hm, rfl⟩ := callTo_stores hd
    exact .inr ⟨ra, m, hra, hm, rfl⟩

theorem pop_next (h : exec (.pop w a) s = .next t) :
    (∃ f, t = faultedAt s f) ∨
    ∃ ra v, readsA s w a ra ∧ memRead params s.mem s.sp w.bytes = .ok v ∧
      ∃ u, t = completed u ra.len ∧ (u = { atIp0 s with sp := s.sp + BitVec.ofNat 16 w.bytes } ∨
        commitTo params { atIp0 s with sp := s.sp + BitVec.ofNat 16 w.bytes } (s.pc + 1) 0 w v a = .ok u) := by
  rw [exec_pop] at h
  obtain hf | ⟨ra, d, u, p, hra, hd, hu, rfl⟩ := cycleOne_next h
  · exact .inl hf
  · obtain ⟨v, hv, rfl⟩ := popValue_loads hd
    exact .inr ⟨ra, v, hra, hv, u, rfl, writeback_commits_at_most hu⟩

/-- RET jumps to the two bytes at SP (R153). -/
theorem exec_ret_of_memRead {v : Word} (m : BitVec 2) (h : memRead params s.mem s.sp 2 = .ok v) :
    exec (.ret m) s = .next (completed { s with pc := v.setWidth 16, sp := s.sp + 2 } 0) := by
  rw [exec_ret]
  exact cycleZero_completes (returnFrom_of (s := s.fetched) h)

/-! ## The obligations -/

/-- Settles O37: the two bytes at SP pass the top from SP = 0xFFFF only. -/
theorem returnPopsPc : Obligations.ReturnPopsPc := by
  refine fun m s => ⟨hasOpcode_opcode _, fun hsp => ?_, fun hsp => ?_⟩
  · rw [exec_ret]
    refine cycleZero_of_error (returnFrom_of_error (s := s.fetched) ?_)
    rw [State.fetched_sp, hsp]
    exact memRead_of_crossesTop _ rfl
  · have hin : crossesTop params s.sp 2 = false := by
      rw [crossesTop_eq_false_iff]
      bv_omega
    rw [exec_ret_of_memRead m (memRead_of_inside s.mem hin), beValue_readBytes_two,
      BitVec.setWidth_ofNat_of_le (by decide)]

/-- Settles O38: RET loads the two bytes that CALL stored, the address after CALL's operand. -/
theorem callThenReturnRestores : Obligations.CallThenReturnRestores := by
  intro w a s t m hw hs h ht
  obtain ⟨f, rfl⟩ | ⟨ra, mem, hra, hmem, rfl⟩ := call_next h
  · cases ht
  · refine ⟨_, exec_ret_of_memRead m (memRead_memWrite hmem hw (by decide)), ?_, BitVec.sub_add_cancel _ _, hs⟩
    rw [← resolve_len hra]
    apply BitVec.eq_of_toNat_eq
    simp [completed]

/-- Settles O39: PUSH is outside the result band, so that its cycle ends as its store does. -/
theorem pushStoresBelowSp : Obligations.PushStoresBelowSp := by
  refine fun w a s => ⟨hasOpcode_opcode _, fun ra m hra hm => ?_, fun ra hra htop => ?_⟩
  · rw [exec_push]
    exact cycleOne_outside (dispatch := fun t ra => pushValue params t w ra.val) rfl hra
      (pushValue_of (s := s.fetched) hm)
  · have hcross := crossesTop_eq_true_iff.mpr
      (show 65536 < (s.sp - BitVec.ofNat 16 w.bytes).toNat + w.bytes by omega)
    rw [exec_push]
    exact cycleOne_of_dispatch_error hra
      (pushValue_of_error (s := s.fetched) (memWrite_of_crossesTop s.mem ra.val hcross))

/-- Settles O40: the load decides first, then the latch, then the commit. -/
theorem popLoadsFromSp : Obligations.PopLoadsFromSp := by
  refine fun w a s => ⟨hasOpcode_opcode _, fun ra hra htop => ?_, fun ra v hra hv => ⟨fun hs => ?_, fun hs => ?_⟩⟩
  · have hcross := crossesTop_eq_true_iff.mpr (show 65536 < s.sp.toNat + w.bytes by omega)
    rw [exec_pop]
    exact cycleOne_of_dispatch_error hra (popValue_of_error (s := s.fetched) (memRead_of_crossesTop s.mem hcross))
  · obtain ⟨-, hpop, -⟩ := suppressedCyclesCommitNothing w a a s ra ra hs hra
    exact hpop v hv
  · have hd : popValue params s.fetched w = .ok ⟨s.fetched.setSp (s.sp + BitVec.ofNat 16 w.bytes), v, false⟩ :=
      popValue_of hv
    rw [exec_pop]
    refine ⟨fun f hf => cycleOne_of_commit_error rfl hs hra hd hf, fun t ht => ?_⟩
    exact cycleOne_completes hra hd (by rw [hs]; exact writeback_commits rfl ht)

/-- Settles O41: POP loads the bytes that PUSH stored, and the pushed value fits the width. -/
theorem pushThenPopRoundTrips : Obligations.PushThenPopRoundTrips := by
  intro w a r s t ra hw hs ha hra h ht hlive
  obtain ⟨f, rfl⟩ | ⟨ra', m, hra', hm, rfl⟩ := push_next h
  · cases ht
  · cases hra'.symm.trans hra
    have hlt : ra.val.toNat < 2 ^ w.bits := resolve_lt ha hra
    have hv := memRead_memWrite hm hw (by cases w <;> decide)
    rw [show 2 ^ (8 * w.bytes) = 2 ^ w.bits from rfl, Nat.mod_eq_of_lt hlt, BitVec.ofNat_toNat,
      BitVec.setWidth_eq] at hv
    obtain ⟨-, -, hpop⟩ := popLoadsFromSp w (.reg r)
      (completed { atIp0 s with sp := s.sp - BitVec.ofNat 16 w.bytes, mem := m } ra.len)
    obtain ⟨-, hcommit⟩ := hpop _ ra.val rfl hv
    obtain ⟨-, hend⟩ := hcommit hlive
    exact ⟨_, hend _ rfl, hs, BitVec.sub_add_cancel _ _, State.regRead_regWrite_of_lt _ r hlt⟩

/-- Settles O52: outside the result band only dispatch acts, and these operations store nothing and keep SP. -/
theorem noStoreFrame : Obligations.NoStoreFrame := by
  intro i s t hi h
  obtain ⟨hop, hk, hcall, hpush, hpop, hret⟩ := noStore_operation hi
  obtain ⟨-, ho, -⟩ := Laws.OpcodeRow.statement i
  rw [ho] at hk hcall hpush hpop hret
  obtain ⟨w, operands, he⟩ := exec_eq_cycleDecoded i s
  obtain ⟨f, rfl⟩ | ⟨k, n, x, y, d, p, hd, rfl⟩ := cycleDecoded_outside_next hop hk (he ▸ h)
  · exact ⟨rfl, fun _ => rfl, fun _ => rfl, raise_hostSideKept s f⟩
  · obtain ⟨hregs, hhost⟩ := dispatch_frame hd
    have hmem := dispatch_mem hd hcall hpush
    have hsp := fun hne => dispatch_sp hd (hret hne) hcall hpush hpop
    exact ⟨hregs, fun x => congrArg (Memory.read · x) hmem, hsp, hhost⟩

/-- Settles O53: the store of PUSH and CALL, and POP's commit with SP already moved. -/
theorem stackFrames : Obligations.StackFrames := by
  refine ⟨fun w a s t h => ?_, fun w a s t h => ?_, fun w a s t h => ?_⟩
  · obtain ⟨f, rfl⟩ | ⟨ra, m, -, hm, rfl⟩ := push_next h
    · exact ⟨rfl, raise_hostSideKept s f, raise_skipsLatched s f, fun _ _ => rfl, nofun⟩
    · exact ⟨rfl, ⟨rfl, rfl, rfl, rfl, rfl⟩, fun _ _ => ⟨rfl, rfl⟩, fun x hx => memWrite_frame hm hx, fun _ _ => rfl⟩
  · obtain ⟨f, rfl⟩ | ⟨ra, m, -, hm, rfl⟩ := call_next h
    · exact ⟨rfl, raise_hostSideKept s f, raise_skipsLatched s f, fun _ _ => rfl, nofun⟩
    · exact ⟨rfl, ⟨rfl, rfl, rfl, rfl, rfl⟩, fun _ _ => ⟨rfl, rfl⟩, fun x hx => memWrite_frame hm hx, fun _ _ => rfl⟩
  · have hhost : hostSideKept s t := exec_hostSideKept (i := .pop w a) id h
    refine ⟨hhost, ?_⟩
    obtain ⟨f, rfl⟩ | ⟨ra, v, -, -, u, rfl, hu⟩ := pop_next h
    · refine ⟨raise_skipsLatched s f, nofun, fun f' p _ hf => ?_⟩
      cases hf
      rfl
    · have hu' : destinationFrame { atIp0 s with sp := s.sp + BitVec.ofNat 16 w.bytes } u (s.pc + 1) 0 w a ∧
          u.skipNext = s.skipNext ∧ u.faulted = s.faulted := by
        obtain rfl | hc := hu
        · exact ⟨destinationFrame_refl _ _ _ _ _, rfl, rfl⟩
        · obtain ⟨hnext, -, -, -, hfaulted, -⟩ := commitTo_rest hc
          exact ⟨commitTo_destinationFrame hc, hnext, hfaulted⟩
      obtain ⟨hframe, hnext, hfaulted⟩ := hu'
      refine ⟨fun _ _ => ⟨rfl, hnext⟩, fun _ _ => destinationFrame_congr hframe rfl rfl rfl, fun f p hs hf => ?_⟩
      cases (hfaulted.trans hs).symm.trans hf

/-- Settles O54: an escape's own frame, and the one of every other instruction's dispatch and commits. -/
theorem onlyEscapesReachTheHost : Obligations.OnlyEscapesReachTheHost := by
  refine ⟨fun i s t hi h => ?_, fun i s t => exec_hostSideKept⟩
  unfold isEscape at hi
  split at hi
  · exact hostEscape_frame (P := params) h
  · exact hostEscape_frame (P := params) h
  · exact hi.elim

/-- Settles O4: the decoder runs on each word. -/
theorem specExampleWordsDecode : Obligations.SpecExampleWordsDecode := ⟨rfl, rfl, rfl, rfl, rfl⟩

/-- Settles O34: dispatch does nothing, and no operand is advanced over. -/
theorem nopOnlyAdvances : Obligations.NopOnlyAdvances :=
  fun _ s => ⟨hasOpcode_opcode _,
    cycleZero_completes (P := params) (dispatch := fun t => .ok ⟨t, 0, false⟩) (d := ⟨s.fetched, 0, false⟩) rfl⟩

/-- Settles O42: the hook is checked once the operand has resolved, and on Continue only step 6 follows the event. -/
theorem hostEscapesContinue : Obligations.HostEscapesContinue := by
  refine fun w a s => ⟨hasOpcode_opcode _, hasOpcode_opcode _, fun ra hra hk => ?_, fun ra hra hk => ?_,
    fun ra hra hk hans => ?_, fun ra hra hk hans => ?_⟩
  · exact hostEscape_without_hook (kind := .breakpoint) hra hk
  · exact hostEscape_without_hook (kind := .interrupt) hra hk
  · exact hostEscape_continued (kind := .breakpoint) hra hk hans
  · exact hostEscape_continued (kind := .interrupt) hra hk hans

/-- Settles O43: Stop keeps the state in which the event was made, and ReentrantCycle the one at the cycle's start. -/
theorem hostEscapesStopOrReenter : Obligations.HostEscapesStopOrReenter := by
  refine fun w a s ra hra => ⟨fun hk hans => ?_, fun hk hans => ?_, fun hk hans => ?_, fun hk hans => ?_⟩
  · exact hostEscape_stopped (kind := .breakpoint) hra hk hans
  · exact hostEscape_stopped (kind := .interrupt) hra hk hans
  · exact hostEscape_reentered (kind := .breakpoint) hra hk hans
  · exact hostEscape_reentered (kind := .interrupt) hra hk hans

end Sys2Proof.Claims
end

section
/-! PROOF. The family 43_alu: the results of the ALU instructions (R171 to R190) with the faults of B's values
(R232), the rotates bit by bit (R189, R190, D23), and what is read back after a commit (R170). -/

/-! ## Rotations within a number of bits -/

namespace Sys2Proof.Machine

variable {bits a k j : Nat}

/-- A rotate right brings bit `j + k` to bit `j`, and leaves no bit beyond the width (R190). -/
theorem testBit_rotateRight (hk : k < bits) (ha : a < 2 ^ bits) (j : Nat) :
    (rotateRight bits a k).testBit j = (decide (j < bits) && a.testBit ((j + k) % bits)) := by
  have hbeyond : ∀ i, bits ≤ i → a.testBit i = false := fun i hi =>
    Nat.testBit_lt_two_pow (ha.trans_le (Nat.pow_le_pow_right (by decide) hi))
  unfold rotateRight
  by_cases hj : j < bits
  · simp only [hj, decide_true, Bool.true_and]
    split
    · subst k
      rw [Nat.add_zero, Nat.mod_eq_of_lt hj]
    · simp only [Nat.testBit_or, Nat.testBit_div_two_pow, Nat.testBit_mod_two_pow, Nat.testBit_mul_two_pow, hj,
        decide_true, Bool.true_and]
      by_cases hjk : j + k < bits
      · have hlow : ¬ bits - k ≤ j := by omega
        rw [Nat.mod_eq_of_lt hjk, decide_eq_false hlow, Bool.false_and, Bool.or_false, Nat.add_comm]
      · have hhigh : bits - k ≤ j := by omega
        have hwrap : (j + k) % bits = j - (bits - k) := by
          rw [Nat.mod_eq_sub_mod (by omega), Nat.mod_eq_of_lt (by omega)]
          omega
        simp [hhigh, hwrap, hbeyond (j + k) (by omega)]
  · simp only [hj, decide_false, Bool.false_and]
    split
    · exact hbeyond j (by omega)
    · simp [hj, Nat.testBit_or, Nat.testBit_div_two_pow, Nat.testBit_mod_two_pow, hbeyond (j + k) (by omega)]

/-- To rotate left is to rotate right by the rest of the width. -/
theorem rotateLeft_eq_rotateRight (hk : k < bits) (h0 : k ≠ 0) :
    rotateLeft bits a k = rotateRight bits a (bits - k) := by
  rw [rotateLeft, rotateRight, if_neg h0, if_neg (by omega), Nat.sub_sub_self hk.le, Nat.or_comm]

/-- A rotate left brings bit `j` to bit `j + k` (R189). -/
theorem testBit_rotateLeft (hk : k < bits) (ha : a < 2 ^ bits) (hj : j < bits) :
    (rotateLeft bits a k).testBit ((j + k) % bits) = a.testBit j := by
  by_cases h0 : k = 0
  · rw [rotateLeft, if_pos h0, h0, Nat.add_zero, Nat.mod_eq_of_lt hj]
  · have hlt : (j + k) % bits < bits := Nat.mod_lt _ (by omega)
    have hback : ((j + k) % bits + (bits - k)) % bits = j := by
      rw [Nat.mod_add_mod, Nat.add_assoc, Nat.add_sub_cancel' hk.le, Nat.add_mod_right, Nat.mod_eq_of_lt hj]
    rw [rotateLeft_eq_rotateRight hk h0, testBit_rotateRight (by omega) ha, hback, decide_eq_true hlt, Bool.true_and]

theorem testBit_rotateLeft_beyond (hk : k < bits) (ha : a < 2 ^ bits) (hj : bits ≤ j) :
    (rotateLeft bits a k).testBit j = false := by
  by_cases h0 : k = 0
  · rw [rotateLeft, if_pos h0]
    exact Nat.testBit_lt_two_pow (ha.trans_le (Nat.pow_le_pow_right (by decide) hj))
  · rw [rotateLeft_eq_rotateRight hk h0, testBit_rotateRight (by omega) ha, decide_eq_false (Nat.not_lt.mpr hj),
      Bool.false_and]

/-! ## The results as numbers -/

variable (x y : Word)

/-- A word is the number it holds. -/
theorem ofNat_toNat_word : BitVec.ofNat 32 x.toNat = x := by
  rw [BitVec.ofNat_toNat, BitVec.setWidth_eq]

/-- The complement as the rules write it (R173). -/
theorem toNat_not_eq_xor : (~~~ x).toNat = x.toNat ^^^ 0xFFFFFFFF := by
  rw [BitVec.not_def, BitVec.xor_comm, BitVec.toNat_xor, BitVec.toNat_allOnes]

theorem aluNot_eq_ofNat : aluNot x = BitVec.ofNat 32 (x.toNat ^^^ 0xFFFFFFFF) := by
  rw [← toNat_not_eq_xor, ofNat_toNat_word, aluNot]

theorem aluInc_eq_ofNat : aluInc x = BitVec.ofNat 32 ((x.toNat + 1) % 2 ^ 32) :=
  BitVec.eq_of_toNat_eq (by simp [aluInc])

theorem aluDec_eq_ofNat : aluDec x = BitVec.ofNat 32 ((x.toNat + 2 ^ 32 - 1) % 2 ^ 32) := by
  apply BitVec.eq_of_toNat_eq
  have h1 : (1 : Word).toNat = 1 := rfl
  rw [aluDec, BitVec.toNat_ofNat, BitVec.toNat_sub, h1]
  omega

theorem aluNeg_eq_ofNat : aluNeg x = BitVec.ofNat 32 ((2 ^ 32 - x.toNat) % 2 ^ 32) :=
  BitVec.eq_of_toNat_eq (by simp [aluNeg])

theorem aluAdd_eq_ofNat : aluAdd x y = BitVec.ofNat 32 ((x.toNat + y.toNat) % 2 ^ 32) :=
  BitVec.eq_of_toNat_eq (by simp [aluAdd])

theorem aluSub_eq_ofNat : aluSub x y = BitVec.ofNat 32 ((x.toNat + 2 ^ 32 - y.toNat) % 2 ^ 32) := by
  have hy := y.isLt
  apply BitVec.eq_of_toNat_eq
  rw [aluSub, BitVec.toNat_ofNat, BitVec.toNat_sub]
  omega

theorem aluMul_eq_ofNat : aluMul x y = BitVec.ofNat 32 (x.toNat * y.toNat % 2 ^ 32) :=
  BitVec.eq_of_toNat_eq (by simp [aluMul])

theorem aluAnd_eq_ofNat : aluAnd x y = BitVec.ofNat 32 (x.toNat &&& y.toNat) := by
  rw [← BitVec.toNat_and, ofNat_toNat_word, aluAnd]

theorem aluOr_eq_ofNat : aluOr x y = BitVec.ofNat 32 (x.toNat ||| y.toNat) := by
  rw [← BitVec.toNat_or, ofNat_toNat_word, aluOr]

theorem aluXor_eq_ofNat : aluXor x y = BitVec.ofNat 32 (x.toNat ^^^ y.toNat) := by
  rw [← BitVec.toNat_xor, ofNat_toNat_word, aluXor]

theorem aluNand_eq_ofNat : aluNand x y = BitVec.ofNat 32 ((x.toNat &&& y.toNat) ^^^ 0xFFFFFFFF) := by
  rw [← BitVec.toNat_and, ← toNat_not_eq_xor, ofNat_toNat_word, aluNand]

theorem aluNor_eq_ofNat : aluNor x y = BitVec.ofNat 32 ((x.toNat ||| y.toNat) ^^^ 0xFFFFFFFF) := by
  rw [← BitVec.toNat_or, ← toNat_not_eq_xor, ofNat_toNat_word, aluNor]

/-! ### BSWAP, by width (R175) -/

theorem aluBswap_w8 : aluBswap .w8 x = BitVec.ofNat 32 (x.toNat % 2 ^ 8) := by
  simp [aluBswap, Width.bytes, beBytes, beValue]

theorem aluBswap_w16 : aluBswap .w16 x = BitVec.ofNat 32 (x.toNat % 2 ^ 8 * 2 ^ 8 + x.toNat / 2 ^ 8 % 2 ^ 8) := by
  simp [aluBswap, Width.bytes, beBytes, beValue]

theorem aluBswap_w32 : aluBswap .w32 x =
    BitVec.ofNat 32 (x.toNat % 2 ^ 8 * 2 ^ 24 + x.toNat / 2 ^ 8 % 2 ^ 8 * 2 ^ 16 + x.toNat / 2 ^ 16 % 2 ^ 8 * 2 ^ 8 +
      x.toNat / 2 ^ 24 % 2 ^ 8) := by
  simp [aluBswap, Width.bytes, beBytes, beValue_cons, Nat.add_assoc]

/-! ## The operations that fault on a value of B -/

theorem aluDiv_of_zero {y : Word} (h : y.toNat = 0) : aluDiv x y = .error .divideByZero :=
  if_pos (BitVec.eq_of_toNat_eq h)

theorem aluDiv_eq_ofNat {y : Word} (h : y.toNat ≠ 0) :
    aluDiv x y = .ok (BitVec.ofNat 32 (x.toNat / y.toNat)) := by
  rw [Claims.aluDiv_of_ne_zero x h, ← BitVec.toNat_udiv, ofNat_toNat_word]

/-- The word with only bit B set, for an index below 32. -/
theorem toNat_one_shiftLeft {y : Word} (h : y.toNat < 32) : ((1 : Word) <<< y.toNat).toNat = 2 ^ y.toNat := by
  have h1 : (1 : Word).toNat = 1 := rfl
  rw [BitVec.toNat_shiftLeft, h1, Nat.one_shiftLeft,
    Nat.mod_eq_of_lt (Nat.pow_lt_pow_right (by decide) h)]

section inRange
variable {y : Word} (h : y.toNat < 32)
include h

theorem aluBset_in_range : aluBset x y = .ok (BitVec.ofNat 32 (x.toNat ||| 2 ^ y.toNat)) := by
  rw [aluBset, if_neg (Nat.not_le.mpr h), ← toNat_one_shiftLeft h, ← BitVec.toNat_or, ofNat_toNat_word]

theorem aluBclr_in_range : aluBclr x y = .ok (BitVec.ofNat 32 (x.toNat &&& (2 ^ y.toNat ^^^ 0xFFFFFFFF))) := by
  rw [aluBclr, if_neg (Nat.not_le.mpr h), ← toNat_one_shiftLeft h, ← toNat_not_eq_xor, ← BitVec.toNat_and,
    ofNat_toNat_word]

theorem aluShl_in_range : aluShl x y = .ok (BitVec.ofNat 32 (x.toNat * 2 ^ y.toNat % 2 ^ 32)) := by
  rw [aluShl, if_neg (Nat.not_le.mpr h), ← Nat.shiftLeft_eq, ← BitVec.toNat_shiftLeft, ofNat_toNat_word]

theorem aluShr_in_range : aluShr x y = .ok (BitVec.ofNat 32 (x.toNat / 2 ^ y.toNat)) := by
  rw [aluShr, if_neg (Nat.not_le.mpr h), ← Nat.shiftRight_eq_div_pow, ← BitVec.toNat_ushiftRight, ofNat_toNat_word]

end inRange

/-! ## The end of a cycle of the result band -/

section cycles
variable {P : Params} {s t u : State} {op : BitVec 6} {w : Width} {a b : Operand} {ra rb : Resolved} {v : Word}

theorem aluOne_commits {g : Word → Word} (hop : inResultBand params op = true) (hs : s.skipActive = false)
    (hra : resolve params s.fetched s.fetched.pc 0 w a = .ok ra)
    (hu : commitTo params s.fetched s.fetched.pc 0 w (g ra.val) a = .ok u) :
    aluOne op w a s g = .next (finish params ra.len (writesPc a) u) :=
  cycleOne_completes (d := ⟨s.fetched, g ra.val, false⟩) hra rfl (by rw [hs]; exact writeback_commits hop hu)

/-- A fault of the operation itself comes before the writeback, whatever the latch (R231). -/
theorem aluTwo_of_error {g : Word → Word → Except ModelFault Word} {f : ModelFault}
    (hr : resolveTwo params s.fetched w a b = .ok (ra, rb)) (hf : g ra.val rb.val = .error f) :
    aluTwo op w a b s g = .next (s.raise f) := by
  simp only [aluTwo, cycleTwo, hr, resultOnly, hf, settle]

/-! ## What is read back after a commit -/

theorem regRead_of_commitTo {ip0 : Addr} {off : Nat} {c : BitVec 5}
    (h : commitTo P s ip0 off w v (.reg c) = .ok t) :
    t.regRead c w.bytes = BitVec.ofNat 32 (v.toNat % 2 ^ w.bits) := by
  have hw : w.bytes ≤ 4 := by cases w <;> decide
  cases h
  rw [State.regRead_regWrite s c w.bytes v hw, two_pow_bits]

theorem memRead_of_commitTo {ip0 ea : Addr} {off : Nat} {o : Operand} (hm : s.mem.wf = true)
    (h : commitTo P s ip0 off w v o = .ok t) (hp : pointerAddr P s ip0 off o = .ok (some ea)) :
    memRead P t.mem ea w.bytes = .ok (BitVec.ofNat 32 (v.toNat % 2 ^ w.bits)) := by
  obtain ⟨-, hstore⟩ := access_of_pointerAddr (w := w) (v := v) (by rw [hp]; nofun)
  obtain ⟨hnone, -⟩ | ⟨ea', m, hp', hwrite, rfl⟩ := storeThrough_ok (hstore ▸ h)
  · cases hnone.symm.trans hp
  · cases hp'.symm.trans hp
    exact memRead_memWrite hwrite hm (by cases w <;> decide)

end cycles

end Sys2Proof.Machine

namespace Sys2Proof.Claims

open Sys2Proof.Machine

variable {op : BitVec 6}

/-! ## From the shape of an instruction to its result -/

theorem commitsResult_of_aluOne {i : Instr} {w : Width} {a : Operand} {s : State} {g : Word → Word} {ra : Resolved}
    (he : exec i s = aluOne op w a s g) (hop : inResultBand params op = true) (ha : readsA s w a ra) :
    commitsResult i s w a ra.len (g ra.val) := by
  intro hs
  obtain ⟨u, hu⟩ := commitTo_of_resolve (g ra.val) ha
  exact ⟨u, hu, he.trans (aluOne_commits hop hs ha hu)⟩

theorem oneOperandResult_of_aluOne {make : Width → Operand → Instr} {g : Width → Word → Word} {res : Width → Nat → Nat}
    (hop : inResultBand params op = true)
    (he : ∀ w a s, (make w a).opcode = op ∧ exec (make w a) s = aluOne op w a s (g w))
    (hg : ∀ w x, g w x = BitVec.ofNat 32 (res w x.toNat)) : oneOperandResult make op res := by
  intro w a s
  obtain ⟨hopcode, hexec⟩ := he w a s
  exact ⟨hopcode ▸ hasOpcode_opcode _, fun ra ha => hg w ra.val ▸ commitsResult_of_aluOne hexec hop ha⟩

theorem twoOperandResult_of_aluTwo {make : Width → Operand → Operand → Instr} {g : Width → Word → Word → Word}
    {res : Width → Nat → Nat → Nat} (hop : inResultBand params op = true)
    (he : ∀ w a b s, (make w a b).opcode = op ∧ exec (make w a b) s = aluTwo op w a b s fun x y => .ok (g w x y))
    (hg : ∀ w x y, g w x y = BitVec.ofNat 32 (res w x.toNat y.toNat)) : twoOperandResult make op res := by
  intro w a b s
  obtain ⟨hopcode, hexec⟩ := he w a b s
  refine ⟨hopcode ▸ hasOpcode_opcode _, fun ra rb ha hb => ?_⟩
  exact hg w ra.val rb.val ▸ commitsResult_of_aluTwo hexec hop ha hb rfl

theorem twoOperandResultOrFault_of_aluTwo {make : Width → Operand → Operand → Instr}
    {g : Word → Word → Except ModelFault Word} {bad : Nat → Prop} {fault : Word → ModelFault} {res : Nat → Nat → Nat}
    (hop : inResultBand params op = true)
    (he : ∀ w a b s, (make w a b).opcode = op ∧ exec (make w a b) s = aluTwo op w a b s g)
    (hbad : ∀ x y : Word, bad y.toNat → g x y = .error (fault y))
    (hok : ∀ x y : Word, ¬ bad y.toNat → g x y = .ok (BitVec.ofNat 32 (res x.toNat y.toNat))) :
    twoOperandResultOrFault make op bad fault res := by
  intro w a b s
  obtain ⟨hopcode, hexec⟩ := he w a b s
  refine ⟨hopcode ▸ hasOpcode_opcode _, fun ra rb ha hb hy => ?_, fun ra rb ha hb hy => ?_⟩
  · exact hexec.trans (aluTwo_of_error (resolveTwo_of ha hb) (hbad _ _ hy))
  · exact commitsResult_of_aluTwo hexec hop ha hb (hok _ _ hy)

/-! ## The obligations -/

/-- Settles O22: a register is written with the low bytes of the value, and memory is read back through the address that
the store used. -/
theorem committedValueIsTruncated : Obligations.CommittedValueIsTruncated := by
  intro s t ip0 off w v o hm h
  refine ⟨?_, fun ea hp => memRead_of_commitTo hm h hp⟩
  rintro c rfl
  exact regRead_of_commitTo h

/-- Settles O23: word arithmetic is arithmetic modulo 2^32. -/
theorem incAddSubResults : Obligations.IncAddSubResults :=
  ⟨oneOperandResult_of_aluOne rfl (fun _ _ _ => ⟨rfl, rfl⟩) fun _ => aluInc_eq_ofNat,
    twoOperandResult_of_aluTwo rfl (fun _ _ _ _ => ⟨rfl, rfl⟩) fun _ => aluAdd_eq_ofNat,
    twoOperandResult_of_aluTwo rfl (fun _ _ _ _ => ⟨rfl, rfl⟩) fun _ => aluSub_eq_ofNat⟩

/-- Settles O24: DIV's result needs no reduction, and B = 0 is its only fault. -/
theorem decNegMulDivResults : Obligations.DecNegMulDivResults :=
  ⟨oneOperandResult_of_aluOne rfl (fun _ _ _ => ⟨rfl, rfl⟩) fun _ => aluDec_eq_ofNat,
    oneOperandResult_of_aluOne rfl (fun _ _ _ => ⟨rfl, rfl⟩) fun _ => aluNeg_eq_ofNat,
    twoOperandResult_of_aluTwo rfl (fun _ _ _ _ => ⟨rfl, rfl⟩) fun _ => aluMul_eq_ofNat,
    twoOperandResultOrFault_of_aluTwo rfl (fun _ _ _ _ => ⟨rfl, rfl⟩) (fun x _ => aluDiv_of_zero x)
      fun x _ => aluDiv_eq_ofNat x⟩

/-- Settles O25: the complement is the exclusive or with the word of ones. -/
theorem bitwiseResults : Obligations.BitwiseResults :=
  ⟨oneOperandResult_of_aluOne rfl (fun _ _ _ => ⟨rfl, rfl⟩) fun _ => aluNot_eq_ofNat,
    twoOperandResult_of_aluTwo rfl (fun _ _ _ _ => ⟨rfl, rfl⟩) fun _ => aluAnd_eq_ofNat,
    twoOperandResult_of_aluTwo rfl (fun _ _ _ _ => ⟨rfl, rfl⟩) fun _ => aluNand_eq_ofNat,
    twoOperandResult_of_aluTwo rfl (fun _ _ _ _ => ⟨rfl, rfl⟩) fun _ => aluOr_eq_ofNat,
    twoOperandResult_of_aluTwo rfl (fun _ _ _ _ => ⟨rfl, rfl⟩) fun _ => aluNor_eq_ofNat,
    twoOperandResult_of_aluTwo rfl (fun _ _ _ _ => ⟨rfl, rfl⟩) fun _ => aluXor_eq_ofNat⟩

/-- Settles O26: the four operations check the index first, and below 32 the bit is inside the word. -/
theorem bitAndShiftResults : Obligations.BitAndShiftResults :=
  ⟨twoOperandResultOrFault_of_aluTwo rfl (fun _ _ _ _ => ⟨rfl, rfl⟩) (fun _ _ h => if_pos h)
      fun x _ h => aluBset_in_range x (Nat.not_le.mp h),
    twoOperandResultOrFault_of_aluTwo rfl (fun _ _ _ _ => ⟨rfl, rfl⟩) (fun _ _ h => if_pos h)
      fun x _ h => aluBclr_in_range x (Nat.not_le.mp h),
    twoOperandResultOrFault_of_aluTwo rfl (fun _ _ _ _ => ⟨rfl, rfl⟩) (fun _ _ h => if_pos h)
      fun x _ h => aluShl_in_range x (Nat.not_le.mp h),
    twoOperandResultOrFault_of_aluTwo rfl (fun _ _ _ _ => ⟨rfl, rfl⟩) (fun _ _ h => if_pos h)
      fun x _ h => aluShr_in_range x (Nat.not_le.mp h)⟩

/-- Settles O27: the model's rotates are the formulas of the rules. -/
theorem rotateResults : Obligations.RotateResults :=
  ⟨twoOperandResult_of_aluTwo (g := aluRol) rfl (fun _ _ _ _ => ⟨rfl, rfl⟩) fun _ _ _ => rfl,
    twoOperandResult_of_aluTwo (g := aluRor) rfl (fun _ _ _ _ => ⟨rfl, rfl⟩) fun _ _ _ => rfl⟩

/-- Settles O28, from the bits of a rotate by `B mod wbits`. -/
theorem rotateMovesEveryBit : Obligations.RotateMovesEveryBit := by
  intro w x y hx
  have hk : y.toNat % w.bits < w.bits := Nat.mod_lt _ (by cases w <;> decide)
  have hw : w.bits ≤ 32 := by cases w <;> decide
  refine ⟨fun j hj => ⟨?_, ?_⟩, fun j hj => ⟨?_, ?_⟩⟩
  · have hlt : (j + y.toNat) % w.bits < 32 := (Nat.mod_lt _ (by omega)).trans_le hw
    rw [aluRol, BitVec.getLsbD_ofNat, decide_eq_true hlt, Bool.true_and, ← Nat.add_mod_mod,
      testBit_rotateLeft hk hx hj]
    rfl
  · rw [aluRor, BitVec.getLsbD_ofNat, decide_eq_true (hj.trans_le hw), Bool.true_and, testBit_rotateRight hk hx,
      decide_eq_true hj, Bool.true_and, Nat.add_mod_mod]
    rfl
  · rw [aluRol, BitVec.getLsbD_ofNat, testBit_rotateLeft_beyond hk hx hj, Bool.and_false]
  · rw [aluRor, BitVec.getLsbD_ofNat, testBit_rotateRight hk hx, decide_eq_false (Nat.not_lt.mpr hj), Bool.false_and,
      Bool.and_false]

/-- Settles O29, width by width. -/
theorem byteSwapResult : Obligations.ByteSwapResult := by
  refine oneOperandResult_of_aluOne (g := aluBswap) rfl (fun _ _ _ => ⟨rfl, rfl⟩) fun w x => ?_
  cases w with
  | w8 => exact aluBswap_w8 x
  | w16 => exact aluBswap_w16 x
  | w32 => exact aluBswap_w32 x

end Sys2Proof.Claims
end

section
/-! PROOF. The family 43_alu, continued: which operation raises which model fault, and on which values (60_exceptions
R232). A cycle raises the fault of an access, that of an escape, or the operation's own. -/

namespace Sys2Proof.Machine

variable {P : Params} {s t u : State} {ip0 : Addr} {off : Nat} {o : Option Operation} {op : BitVec 6} {w : Width}
  {a b : Operand} {x y v : Word} {f : ModelFault} {p : Addr}

/-! ## The faults of an access -/

/-- The two faults that an access to memory or to a special register raises, each on what warrants it (R54, R108,
R232). -/
inductive AccessFault : ModelFault → Prop where
  | badSpecialRegister {c : BitVec 5} (h : 2 ≤ c.toNat) : AccessFault (.badSpecialRegister c)
  | crossTopAccess {a : Addr} {n : Nat} (h : 65536 < a.toNat + n) : AccessFault (.crossTopAccess a n)

theorem AccessFault.of_crossesTop {a : Addr} {n : Nat} (h : crossesTop P a n = true) :
    AccessFault (.crossTopAccess a n) := by
  simp only [crossesTop, Bool.and_eq_true, decide_eq_true_eq] at h
  exact .crossTopAccess h.2

theorem AccessFault.of_memRead {m : Memory} {a : Addr} {n : Nat} (h : memRead P m a n = .error f) : AccessFault f := by
  obtain ⟨hc, rfl⟩ := memRead_error h
  exact .of_crossesTop hc

theorem AccessFault.of_memWrite {m : Memory} {a : Addr} {n : Nat} (h : memWrite P m a n v = .error f) :
    AccessFault f := by
  obtain ⟨hc, rfl⟩ := memWrite_error h
  exact .of_crossesTop hc

theorem AccessFault.of_pointerAddr (h : pointerAddr P s ip0 off a = .error f) : AccessFault f := by
  cases a with
  | inline c => cases h
  | literal c x => cases h
  | reg c => cases h
  | special c => cases h
  | inlinePtr c => cases h
  | regPtr c => cases h
  | literalPtr c x =>
    simp only [pointerAddr] at h
    split at h <;> cases h
    exact .of_crossesTop ‹_›
  | specialPtr c =>
    simp only [pointerAddr] at h
    split at h <;> cases h
    exact .badSpecialRegister ‹_›

theorem AccessFault.of_loadThrough (h : loadThrough P s ip0 off w a = .error f) : AccessFault f := by
  unfold loadThrough at h
  split at h
  · cases h
    exact .of_pointerAddr ‹_›
  · cases h
  · split at h <;> cases h
    exact .of_memRead ‹_›

theorem AccessFault.of_storeThrough (h : storeThrough P s ip0 off w v a = .error f) : AccessFault f := by
  unfold storeThrough at h
  split at h
  · cases h
    exact .of_pointerAddr ‹_›
  · cases h
  · split at h <;> cases h
    exact .of_memWrite ‹_›

/-- An operand resolves, or its access faults. -/
theorem AccessFault.of_resolve (h : resolve P s ip0 off w a = .error f) : AccessFault f := by
  cases a with
  | inline c => cases h
  | reg c => cases h
  | literal c x =>
    simp only [resolve] at h
    split at h <;> cases h
    exact .of_crossesTop ‹_›
  | special c =>
    simp only [resolve] at h
    split at h <;> cases h
    exact .badSpecialRegister ‹_›
  | inlinePtr c => rw [resolve] at h; exact .of_loadThrough h
  | literalPtr c x => rw [resolve] at h; exact .of_loadThrough h
  | regPtr c => rw [resolve] at h; exact .of_loadThrough h
  | specialPtr c => rw [resolve] at h; exact .of_loadThrough h

/-- A commit succeeds, or its access faults. -/
theorem AccessFault.of_commitTo (h : commitTo P s ip0 off w v a = .error f) : AccessFault f := by
  cases a with
  | inline c => cases h
  | reg c => cases h
  | literal c x => cases h
  | special c =>
    simp only [commitTo] at h
    split at h <;> cases h
    exact .badSpecialRegister ‹_›
  | inlinePtr c => rw [commitTo] at h; exact .of_storeThrough h
  | literalPtr c x => rw [commitTo] at h; exact .of_storeThrough h
  | regPtr c => rw [commitTo] at h; exact .of_storeThrough h
  | specialPtr c => rw [commitTo] at h; exact .of_storeThrough h

theorem AccessFault.of_writeback {sup : Bool} {d : Dispatched} (h : writeback P op ip0 w a sup d = .error f) :
    AccessFault f := by
  unfold writeback at h
  split at h
  · split at h <;> cases h
    exact .of_commitTo ‹_›
  · cases h

theorem AccessFault.of_exchange {n : Nat} {sup : Bool} (h : exchange P op ip0 w a n x y sup s = .error f) :
    AccessFault f := by
  unfold exchange at h
  split at h
  · split at h
    · cases h
      exact .of_commitTo ‹_›
    · simp only at h
      split at h <;> cases h
      exact .of_commitTo ‹_›
  · cases h

theorem AccessFault.of_resolveTwo (h : resolveTwo P s w a b = .error f) : AccessFault f := by
  unfold resolveTwo at h
  split at h
  · cases h
    exact .of_resolve ‹_›
  · split at h <;> cases h
    exact .of_resolve ‹_›

/-! The stack instructions access memory in their dispatch (R152 to R155). -/

theorem AccessFault.of_returnFrom (h : returnFrom P t = .error f) : AccessFault f := by
  unfold returnFrom at h
  split at h <;> cases h
  exact .of_memRead ‹_›

theorem AccessFault.of_callTo {n : Nat} (h : callTo P t n x = .error f) : AccessFault f := by
  unfold callTo at h
  split at h <;> cases h
  exact .of_memWrite ‹_›

theorem AccessFault.of_pushValue (h : pushValue P t w x = .error f) : AccessFault f := by
  unfold pushValue at h
  split at h <;> cases h
  exact .of_memWrite ‹_›

theorem AccessFault.of_popValue (h : popValue P t w = .error f) : AccessFault f := by
  unfold popValue at h
  split at h <;> cases h
  exact .of_memRead ‹_›

/-! ## The faults of an operation's own -/

/-- The operations that take B as a bit index (R185, R186, R217 to R220). -/
def bitIndexOps : List TwoOp := [.bset, .bclr, .jbs, .sbc, .jbc, .sbs]

/-- The fault that an operation raises itself, and the value of B that warrants it (R232). -/
inductive ValueFault : TwoOp → Word → ModelFault → Prop where
  | divideByZero {y : Word} (hy : y = 0) : ValueFault .div y .divideByZero
  | shiftRange {z : TwoOp} {y : Word} (hz : z = .shl ∨ z = .shr) (hy : 32 ≤ y.toNat) : ValueFault z y (.shiftRange y)
  | bitIndexRange {z : TwoOp} {y : Word} (hz : z ∈ bitIndexOps) (hy : 32 ≤ y.toNat) : ValueFault z y (.bitIndexRange y)

theorem resultOnly_error {r : Except ModelFault Word} (h : resultOnly t r = .error f) : r = .error f := by
  unfold resultOnly at h
  split at h <;> cases h
  rfl

theorem skipOnly_error {c : Except ModelFault Bool} (h : skipOnly t c = .error f) : c = .error f := by
  unfold skipOnly at h
  split at h <;> cases h
  rfl

/-- A guard raises its own fault, where its condition holds. -/
theorem guard_error {α : Type} {c : Prop} [Decidable c] {e : ModelFault} {r : α}
    (h : (if c then .error e else .ok r) = (.error f : Except ModelFault α)) : c ∧ e = f := by
  split at h <;> cases h
  exact ⟨‹_›, rfl⟩

theorem bitTest_of_condBitClear_error (h : condBitClear x y = .error f) : bitTest x y = .error f := by
  unfold condBitClear at h
  split at h <;> cases h
  assumption

/-- The fault of an operation on two operands is its own: it accesses nothing (R135). -/
theorem dispatchTwo_error {z : TwoOp} (h : dispatchTwo w t x y z = .error f) : ValueFault z y f := by
  have bitIndex : ∀ {z : TwoOp}, z ∈ bitIndexOps → 32 ≤ y.toNat ∧ .bitIndexRange y = f → ValueFault z y f := by
    rintro z hz ⟨hy, rfl⟩
    exact .bitIndexRange hz hy
  have shift : ∀ {z : TwoOp}, z = .shl ∨ z = .shr → 32 ≤ y.toNat ∧ .shiftRange y = f → ValueFault z y f := by
    rintro z hz ⟨hy, rfl⟩
    exact .shiftRange hz hy
  cases z <;> simp only [dispatchTwo] at h
  case div =>
    obtain ⟨hy, rfl⟩ := guard_error (resultOnly_error h)
    exact .divideByZero hy
  case shl => exact shift (.inl rfl) (guard_error (resultOnly_error h))
  case shr => exact shift (.inr rfl) (guard_error (resultOnly_error h))
  case bset | bclr => exact bitIndex (by decide) (guard_error (resultOnly_error h))
  case jbs | sbc => exact bitIndex (by decide) (guard_error (bitTest_of_condBitClear_error (skipOnly_error h)))
  case jbc | sbs => exact bitIndex (by decide) (guard_error (skipOnly_error h))
  case add | sub | mul | and | nand | or | nor | xor | rol | ror | xchg | mov => cases h
  case je | sne | jne | se | jl | sge | jge | sl | jg | sle | jle | sg => cases h

/-- Everything that dispatch raises: the fault of a stack access, or the operation's own. -/
theorem dispatch_error {n : Nat} (h : dispatch P o w n t x y = .error f) :
    AccessFault f ∨ ∃ z, o = some (.two z) ∧ ValueFault z y f := by
  match o with
  | none => cases h
  | some (.zero .nop) => cases h
  | some (.zero .ret) => exact .inl (.of_returnFrom h)
  | some (.one z) =>
    cases z <;> simp only [dispatch, dispatchOne] at h
    case call => exact .inl (.of_callTo h)
    case push => exact .inl (.of_pushValue h)
    case pop => exact .inl (.of_popValue h)
    case jmp | brk | int | jz | snz | jnz | sz | inc | dec | not | neg | bswap => cases h
  | some (.two z) => exact .inr ⟨z, rfl, dispatchTwo_error h⟩

/-! ## What a cycle raises -/

/-- A cycle that completes faults no state, so that a fault comes from an error of its steps. -/
theorem settle_faults {r : Except ModelFault State} (h : settle s r = .next t) (ht : t.faulted = some (f, p))
    (hok : ∀ u, r = .ok u → u.faulted = none) : r = .error f := by
  obtain ⟨g, rfl, rfl⟩ | rfl := settle_next h
  · cases ht
    rfl
  · cases (hok t rfl).symm.trans ht

theorem writeback_faulted {sup q : Bool} {d : Dispatched} (h : writeback P op ip0 w a sup d = .ok (u, q)) :
    u.faulted = d.st.faulted := by
  obtain ⟨-, -, -, hf, -⟩ := (commits_of_writeback h).rest
  exact hf

theorem dispatch_faulted {n : Nat} {d : Dispatched} (hs : s.faulted = none)
    (h : dispatch P o w n s.fetched x y = .ok d) : d.st.faulted = none := by
  obtain ⟨-, hf, -⟩ := dispatch_keeps h
  exact hf.trans hs

/-- Why a cycle of the operation `o` on the operands `operands` raises a fault (R110, R161, R232, R236). -/
inductive CycleFault (P : Params) (o : Option Operation) (w : Width) (s : State) : Operands → ModelFault → Prop where
  | access {operands : Operands} {f : ModelFault} (h : AccessFault f) : CycleFault P o w s operands f
  | hookMissing {operands : Operands} {kind : HostKind} (hk : escapeKind o = some kind)
      (h : s.hookInstalled kind = false) : CycleFault P o w s operands (.hostHookMissing kind)
  | reentrant {operands : Operands} {kind : HostKind} (hk : escapeKind o = some kind) (h : s.nextAnswer = .reenter) :
      CycleFault P o w s operands .reentrantCycle
  | value {a b : Operand} {z : TwoOp} {ra rb : Resolved} {f : ModelFault} (ho : o = some (.two z))
      (hr : resolveTwo P s.fetched w a b = .ok (ra, rb)) (h : ValueFault z rb.val f) : CycleFault P o w s (.two a b) f

theorem hostEscape_faults {kind : HostKind} (hk : escapeKind o = some kind) (hs : s.faulted = none)
    (h : hostEscape P kind w a s = .next t) (ht : t.faulted = some (f, p)) : CycleFault P o w s (.one a) f := by
  cases hra : resolve P s.fetched s.fetched.pc 0 w a with
  | error g =>
    cases (hostEscape_of_error hra).symm.trans h
    cases ht
    exact .access (.of_resolve hra)
  | ok ra =>
    simp only [hostEscape, hra] at h
    obtain ⟨hook, rfl⟩ | ⟨-, ⟨-, h⟩ | ⟨-, rfl⟩ | ⟨hans, rfl⟩⟩ := answerEscape_next h
    · cases ht
      exact .hookMissing hk hook
    · cases settle_faults h ht (by rintro u ⟨⟩; rw [finish_faulted]; exact hs)
    · cases hs.symm.trans ht
    · cases ht
      exact .reentrant hk hans

theorem cycleZero_faults {dispatch : State → Except ModelFault Dispatched}
    (hd : ∀ d, dispatch s.fetched = .ok d → d.st.faulted = none) (h : cycleZero P s dispatch = .next t)
    (ht : t.faulted = some (f, p)) : dispatch s.fetched = .error f := by
  cases hdisp : dispatch s.fetched with
  | error g =>
    cases (cycleZero_of_error hdisp).symm.trans h
    cases ht
    rfl
  | ok d =>
    cases (cycleZero_completes hdisp).symm.trans h
    rw [finish_faulted, hd d hdisp] at ht
    cases ht

/-- A cycle of one operand raises the fault of an access, or dispatch's. -/
theorem cycleOne_faults {dispatch : State → Resolved → Except ModelFault Dispatched}
    (hd : ∀ ra d, dispatch s.fetched ra = .ok d → d.st.faulted = none) (h : cycleOne P op w a s dispatch = .next t)
    (ht : t.faulted = some (f, p)) : AccessFault f ∨ ∃ ra, dispatch s.fetched ra = .error f := by
  cases hra : resolve P s.fetched s.fetched.pc 0 w a with
  | error g =>
    cases (cycleOne_of_error hra).symm.trans h
    cases ht
    exact .inl (.of_resolve hra)
  | ok ra =>
    cases hdisp : dispatch s.fetched ra with
    | error g =>
      cases (cycleOne_of_dispatch_error hra hdisp).symm.trans h
      cases ht
      exact .inr ⟨ra, hdisp⟩
    | ok d =>
      cases hwb : writeback P op s.fetched.pc w a s.skipActive d with
      | error g =>
        simp only [cycleOne, hra, hdisp, hwb, settle] at h
        cases h
        cases ht
        exact .inl (.of_writeback hwb)
      | ok r =>
        cases (cycleOne_completes hra hdisp hwb).symm.trans h
        rw [finish_faulted, writeback_faulted hwb, hd ra d hdisp] at ht
        cases ht

/-- A cycle of two operands raises the fault of an access, or dispatch's on the resolved operands. -/
theorem cycleTwo_faults {dispatch : State → Resolved → Resolved → Except ModelFault Dispatched}
    (hd : ∀ ra rb d, dispatch s.fetched ra rb = .ok d → d.st.faulted = none)
    (h : cycleTwo P op w a b s dispatch = .next t) (ht : t.faulted = some (f, p)) :
    AccessFault f ∨
      ∃ ra rb, resolveTwo P s.fetched w a b = .ok (ra, rb) ∧ dispatch s.fetched ra rb = .error f := by
  cases hr : resolveTwo P s.fetched w a b with
  | error g =>
    cases (cycleTwo_of_error hr).symm.trans h
    cases ht
    exact .inl (.of_resolveTwo hr)
  | ok r =>
    obtain ⟨ra, rb⟩ := r
    cases hdisp : dispatch s.fetched ra rb with
    | error g =>
      simp only [cycleTwo, hr, hdisp, settle] at h
      cases h
      cases ht
      exact .inr ⟨ra, rb, rfl, hdisp⟩
    | ok d =>
      cases hwb : writeback P op s.fetched.pc w a s.skipActive d with
      | error g =>
        simp only [cycleTwo, hr, hdisp, hwb, settle] at h
        cases h
        cases ht
        exact .inl (.of_writeback hwb)
      | ok q =>
        cases (cycleTwo_completes hr hdisp hwb).symm.trans h
        rw [finish_faulted, writeback_faulted hwb, hd ra rb d hdisp] at ht
        cases ht

/-- XCHG raises the faults of accesses only. -/
theorem cycleExchange_faults (hs : s.faulted = none) (h : cycleExchange P op w a b s = .next t)
    (ht : t.faulted = some (f, p)) : AccessFault f := by
  cases hr : resolveTwo P s.fetched w a b with
  | error g =>
    cases (cycleExchange_of_error hr).symm.trans h
    cases ht
    exact .of_resolveTwo hr
  | ok r =>
    obtain ⟨ra, rb⟩ := r
    cases hx : exchange P op s.fetched.pc w a ra.len ra.val rb.val s.skipActive s.fetched with
    | error g =>
      simp only [cycleExchange, hr, hx, settle] at h
      cases h
      cases ht
      exact .of_exchange hx
    | ok q =>
      simp only [cycleExchange, hr, hx, settle] at h
      cases h
      obtain ⟨-, -, -, hf, -⟩ := (commits_of_exchange hx).rest
      rw [finish_faulted, hf, State.fetched_faulted, hs] at ht
      cases ht

/-- Why the cycle of an instruction made of its operation and operands raises a fault. -/
theorem cycleDecoded_faults {mode : BitVec 2} {operands : Operands} {i : Instr}
    (hm : makeInstr o op mode operands = some i) (hs : s.faulted = none)
    (h : cycleDecoded P o op w s operands = .next t) (ht : t.faulted = some (f, p)) :
    CycleFault P o w s operands f := by
  cases operands with
  | zero =>
    simp only [cycleDecoded] at h
    have hd := cycleZero_faults (fun d => dispatch_faulted hs) h ht
    obtain ha | ⟨z, rfl, -⟩ := dispatch_error hd
    · exact .access ha
    · cases hm
  | one a =>
    simp only [cycleDecoded] at h
    split at h
    · rename_i kind hk
      exact hostEscape_faults hk hs h ht
    · obtain ha | ⟨ra, hd⟩ := cycleOne_faults (fun ra d => dispatch_faulted hs) h ht
      · exact .access ha
      obtain ha | ⟨z, rfl, -⟩ := dispatch_error hd
      · exact .access ha
      · cases hm
  | two a b =>
    simp only [cycleDecoded] at h
    split at h
    · exact .access (cycleExchange_faults hs h ht)
    · obtain ha | ⟨ra, rb, hr, hd⟩ := cycleTwo_faults (fun ra rb d => dispatch_faulted hs) h ht
      · exact .access ha
      obtain ha | ⟨z, ho, hz⟩ := dispatch_error hd
      · exact .access ha
      · exact .value ho hr hz

/-- Why an instruction raises a fault, with the operands it is made of. -/
theorem exec_faults {i : Instr} (hs : s.faulted = none) (h : exec i s = .next t) (ht : t.faulted = some (f, p)) :
    ∃ operands, makeInstr i.operation i.opcode i.mode operands = some i ∧
      CycleFault params i.operation (widthOf i.mode) s operands f := by
  obtain ⟨-, ho, operands, hm, -, -⟩ := Laws.OpcodeRow.statement i
  have he := exec_makeInstr s (ho.symm ▸ hm)
  rw [ho] at he
  exact ⟨operands, hm, cycleDecoded_faults hm hs (he ▸ h) ht⟩

end Sys2Proof.Machine

namespace Sys2Proof.Claims

open Sys2Proof.Machine

theorem bitIndexMakers_eq : bitIndexMakers = bitIndexOps.map TwoOp.make := rfl

/-- The instruction that escapes through a hook, by the hook's kind (R162, R163). -/
theorem made_of_escapeKind {i : Instr} {kind : HostKind} (h : escapeKind i.operation = some kind) :
    (kind = .breakpoint ∧ ∃ w a, i = .brk w a) ∨ (kind = .interrupt ∧ ∃ w a, i = .int w a) := by
  unfold escapeKind at h
  split at h
  · cases h
    exact .inl ⟨rfl, made_of_one ‹_›⟩
  · split at h <;> cases h
    exact .inr ⟨rfl, made_of_one ‹_›⟩

/-- Settles O59: the causes of a fault, each of which names the fault that it raises. -/
theorem faultsComeFromTheirInstructions : Obligations.FaultsComeFromTheirInstructions := by
  intro i s t f p hs h ht
  obtain ⟨operands, hm, hf⟩ := exec_faults hs h ht
  cases hf with
  | access ha =>
    cases ha with
    | badSpecialRegister hc =>
      exact ⟨nofun, nofun, nofun, nofun, nofun, nofun, nofun, fun c e => by cases e; exact hc, nofun⟩
    | crossTopAccess hn =>
      exact ⟨nofun, nofun, nofun, nofun, nofun, nofun, nofun, nofun, fun a n e => by cases e; omega⟩
  | hookMissing hk hook =>
    obtain ⟨rfl, hi⟩ | ⟨rfl, hi⟩ := made_of_escapeKind hk
    · exact ⟨nofun, nofun, nofun, fun _ => ⟨hook, hi⟩, nofun, nofun, nofun, nofun, nofun⟩
    · exact ⟨nofun, nofun, nofun, nofun, fun _ => ⟨hook, hi⟩, nofun, nofun, nofun, nofun⟩
  | reentrant hk hans =>
    exact ⟨nofun, nofun, nofun, nofun, nofun, fun _ => ⟨isEscape_of_escapeKind hk, hans⟩, nofun, nofun, nofun⟩
  | @value a b z ra rb _ ho hr hv =>
    rw [ho] at hm
    have hi : i = z.make (widthOf i.mode) a b := (Option.some.inj hm).symm
    obtain ⟨hra, hrb⟩ := resolveTwo_ok hr
    cases hv with
    | divideByZero hy =>
      exact ⟨fun _ => ⟨_, a, b, ra, rb, hi, hra, hrb, hy⟩, nofun, nofun, nofun, nofun, nofun, nofun, nofun, nofun⟩
    | shiftRange hz hy =>
      refine ⟨nofun, fun n e => ?_, nofun, nofun, nofun, nofun, nofun, nofun, nofun⟩
      cases e
      have hshift : i = .shl (widthOf i.mode) a b ∨ i = .shr (widthOf i.mode) a b := by
        obtain rfl | rfl := hz
        exacts [.inl hi, .inr hi]
      exact ⟨hy, _, a, b, ra, rb, hshift, hra, hrb, rfl⟩
    | bitIndexRange hz hy =>
      refine ⟨nofun, nofun, fun n e => ?_, nofun, nofun, nofun, nofun, nofun, nofun⟩
      cases e
      exact ⟨hy, z.make, bitIndexMakers_eq ▸ List.mem_map_of_mem hz, _, a, b, ra, rb, hi, hra, hrb, rfl⟩

end Sys2Proof.Claims
end

section
/-! PROOF. The family 44_conditional. No conditional is of the result band, so that its cycle ends in dispatch's own
effect: `skip_next` is set where the condition holds (R200), and the end of the cycle latches it (41_cycle R140). -/

namespace Sys2Proof.Machine

variable {s : State} {op : BitVec 6} {w : Width} {a b : Operand} {ra rb : Resolved} {x y : Word}

/-! ## What a condition does to the state -/

theorem State.skipIf_true (s : State) : s.skipIf true = { s with skipNext := true } := by
  rw [State.skipIf, Bool.or_true]
  rfl

theorem State.skipIf_false (s : State) : s.skipIf false = s := by
  rw [State.skipIf, Bool.or_false]
  rfl

/-! ## The cycle of a conditional -/

theorem testOne_completes {c : Word → Bool} (hop : inResultBand params op = false)
    (hra : resolve params s.fetched s.fetched.pc 0 w a = .ok ra) :
    testOne op w a s c = .next (finish params ra.len false (s.fetched.skipIf (c ra.val))) :=
  cycleOne_outside (d := ⟨s.fetched.skipIf (c ra.val), 0, false⟩) hop hra rfl

theorem testTwo_completes {c : Word → Word → Except ModelFault Bool} {holds : Bool}
    (hop : inResultBand params op = false) (hr : resolveTwo params s.fetched w a b = .ok (ra, rb))
    (hc : c ra.val rb.val = .ok holds) :
    testTwo op w a b s c = .next (finish params (ra.len + rb.len) false (s.fetched.skipIf holds)) :=
  cycleTwo_completes (d := ⟨s.fetched.skipIf holds, 0, false⟩) hr (by rw [hc]; rfl) (writeback_outside hop)

/-- A condition that raises a fault ends the cycle at dispatch (R217 to R220, R231). -/
theorem testTwo_of_error {c : Word → Word → Except ModelFault Bool} {f : ModelFault}
    (hr : resolveTwo params s.fetched w a b = .ok (ra, rb)) (hc : c ra.val rb.val = .error f) :
    testTwo op w a b s c = .next (s.raise f) := by
  simp only [testTwo, cycleTwo, hr, skipOnly, hc, settle]

/-! ## The conditions of the bit tests -/

theorem bitTest_out_of_range (x : Word) (h : 32 ≤ y.toNat) : bitTest x y = .error (.bitIndexRange y) := if_pos h

theorem bitTest_in_range (x : Word) (h : y.toNat < 32) :
    bitTest x y = .ok (decide (x.toNat / 2 ^ y.toNat % 2 = 1)) := by
  rw [bitTest, if_neg (Nat.not_le.mpr h), BitVec.getLsbD, Nat.testBit_eq_decide_div_mod_eq]

theorem condBitClear_out_of_range (x : Word) (h : 32 ≤ y.toNat) : condBitClear x y = .error (.bitIndexRange y) := by
  simp only [condBitClear, bitTest_out_of_range x h]

theorem condBitClear_in_range (x : Word) (h : y.toNat < 32) :
    condBitClear x y = .ok (decide (x.toNat / 2 ^ y.toNat % 2 = 0)) := by
  simp only [condBitClear, bitTest_in_range x h, ← decide_not, Nat.mod_two_ne_one]

end Sys2Proof.Machine

namespace Sys2Proof.Claims

open Sys2Proof.Machine

variable {op : BitVec 6}

/-! ## From the shape of a conditional to what it skips -/

section ends
variable {i : Instr} {s : State} {w : Width} {a b : Operand} {ra rb : Resolved}
  {c : Word → Word → Except ModelFault Bool}

theorem skips_of_testTwo (he : exec i s = testTwo op w a b s c) (hop : inResultBand params op = false)
    (ha : readsA s w a ra) (hb : readsB s w ra b rb) (hc : c ra.val rb.val = .ok true) :
    exec i s = .next (completed { atIp0 s with skipNext := true } (ra.len + rb.len)) := by
  rw [he, testTwo_completes hop (resolveTwo_of ha hb) hc, State.skipIf_true, finish_eq_completed]
  rfl

theorem completes_of_testTwo (he : exec i s = testTwo op w a b s c) (hop : inResultBand params op = false)
    (ha : readsA s w a ra) (hb : readsB s w ra b rb) (hc : c ra.val rb.val = .ok false) :
    exec i s = .next (completed (atIp0 s) (ra.len + rb.len)) := by
  rw [he, testTwo_completes hop (resolveTwo_of ha hb) hc, State.skipIf_false, finish_eq_completed]
  rfl

end ends

theorem oneOperandTest_of_testOne {make : Width → Operand → Instr} {c : Word → Bool} {cond : Nat → Prop}
    (hop : inResultBand params op = false)
    (he : ∀ w a s, (make w a).opcode = op ∧ exec (make w a) s = testOne op w a s c)
    (hc : ∀ x, c x = true ↔ cond x.toNat) : oneOperandTest make op cond := by
  intro w a s
  obtain ⟨hopcode, hexec⟩ := he w a s
  refine ⟨hopcode ▸ hasOpcode_opcode _, fun ra ha hx => ?_, fun ra ha hx => ?_⟩
  · rw [hexec, testOne_completes hop ha, (hc ra.val).mpr hx, State.skipIf_true, finish_eq_completed]
    rfl
  · rw [hexec, testOne_completes hop ha, Bool.eq_false_iff.mpr (mt (hc ra.val).mp hx), State.skipIf_false,
      finish_eq_completed]
    rfl

theorem twoOperandCompare_of_testTwo {make : Width → Operand → Operand → Instr} {c : Word → Word → Bool}
    {cond : Nat → Nat → Prop} (hop : inResultBand params op = false)
    (he : ∀ w a b s, (make w a b).opcode = op ∧ exec (make w a b) s = testTwo op w a b s fun x y => .ok (c x y))
    (hc : ∀ x y, c x y = true ↔ cond x.toNat y.toNat) : twoOperandCompare make op cond := by
  intro w a b s
  obtain ⟨hopcode, hexec⟩ := he w a b s
  refine ⟨hopcode ▸ hasOpcode_opcode _, fun ra rb ha hb hxy => ?_, fun ra rb ha hb hxy => ?_⟩
  · exact skips_of_testTwo hexec hop ha hb (congrArg Except.ok ((hc _ _).mpr hxy))
  · exact completes_of_testTwo hexec hop ha hb (congrArg Except.ok (Bool.eq_false_iff.mpr (mt (hc _ _).mp hxy)))

theorem bitIndexTest_of_testTwo {make : Width → Operand → Operand → Instr} {c : Word → Word → Except ModelFault Bool}
    {bit : Nat} (hop : inResultBand params op = false)
    (he : ∀ w a b s, (make w a b).opcode = op ∧ exec (make w a b) s = testTwo op w a b s c)
    (hbad : ∀ x y : Word, 32 ≤ y.toNat → c x y = .error (.bitIndexRange y))
    (hok : ∀ x y : Word, y.toNat < 32 → c x y = .ok (decide (x.toNat / 2 ^ y.toNat % 2 = bit))) :
    bitIndexTest make op bit := by
  intro w a b s
  obtain ⟨hopcode, hexec⟩ := he w a b s
  refine ⟨hopcode ▸ hasOpcode_opcode _, fun ra rb ha hb hy => ?_, fun ra rb ha hb hy hbit => ?_,
    fun ra rb ha hb hy hbit => ?_⟩
  · exact hexec.trans (testTwo_of_error (resolveTwo_of ha hb) (hbad _ _ hy))
  · exact skips_of_testTwo hexec hop ha hb (by rw [hok _ _ hy, decide_eq_true hbit])
  · exact completes_of_testTwo hexec hop ha hb (by rw [hok _ _ hy, decide_eq_false hbit])

/-! ## The obligations -/

/-- Settles O44: SNZ tests `A != 0` and SE tests `A = B`, and neither does more than set `skip_next`. -/
theorem skipIfNonzeroAndSkipIfEqual : Obligations.SkipIfNonzeroAndSkipIfEqual :=
  ⟨oneOperandTest_of_testOne (c := condNonzero) rfl (fun _ _ _ => ⟨rfl, rfl⟩) fun _ => decide_eq_true_iff,
    twoOperandCompare_of_testTwo (c := condEqual) rfl (fun _ _ _ _ => ⟨rfl, rfl⟩) fun _ _ => decide_eq_true_iff⟩

/-- Settles O45: a jump member tests the complement of its own name, which is the condition its skip member is named
for (D19). -/
theorem unsignedComparisonConditionals : Obligations.UnsignedComparisonConditionals :=
  ⟨oneOperandTest_of_testOne (c := condNonzero) rfl (fun _ _ _ => ⟨rfl, rfl⟩) fun _ => decide_eq_true_iff,
    oneOperandTest_of_testOne (c := condZero) rfl (fun _ _ _ => ⟨rfl, rfl⟩) fun _ => decide_eq_true_iff,
    oneOperandTest_of_testOne (c := condZero) rfl (fun _ _ _ => ⟨rfl, rfl⟩) fun _ => decide_eq_true_iff,
    twoOperandCompare_of_testTwo (c := condNotEqual) rfl (fun _ _ _ _ => ⟨rfl, rfl⟩) fun _ _ => decide_eq_true_iff,
    twoOperandCompare_of_testTwo (c := condNotEqual) rfl (fun _ _ _ _ => ⟨rfl, rfl⟩) fun _ _ => decide_eq_true_iff,
    twoOperandCompare_of_testTwo (c := condEqual) rfl (fun _ _ _ _ => ⟨rfl, rfl⟩) fun _ _ => decide_eq_true_iff,
    twoOperandCompare_of_testTwo (c := condGreaterEqual) rfl (fun _ _ _ _ => ⟨rfl, rfl⟩) fun _ _ => decide_eq_true_iff,
    twoOperandCompare_of_testTwo (c := condGreaterEqual) rfl (fun _ _ _ _ => ⟨rfl, rfl⟩) fun _ _ => decide_eq_true_iff,
    twoOperandCompare_of_testTwo (c := condLess) rfl (fun _ _ _ _ => ⟨rfl, rfl⟩) fun _ _ => decide_eq_true_iff,
    twoOperandCompare_of_testTwo (c := condLess) rfl (fun _ _ _ _ => ⟨rfl, rfl⟩) fun _ _ => decide_eq_true_iff,
    twoOperandCompare_of_testTwo (c := condLessEqual) rfl (fun _ _ _ _ => ⟨rfl, rfl⟩) fun _ _ => decide_eq_true_iff,
    twoOperandCompare_of_testTwo (c := condLessEqual) rfl (fun _ _ _ _ => ⟨rfl, rfl⟩) fun _ _ => decide_eq_true_iff,
    twoOperandCompare_of_testTwo (c := condGreater) rfl (fun _ _ _ _ => ⟨rfl, rfl⟩) fun _ _ => decide_eq_true_iff,
    twoOperandCompare_of_testTwo (c := condGreater) rfl (fun _ _ _ _ => ⟨rfl, rfl⟩) fun _ _ => decide_eq_true_iff⟩

/-- Settles O46: the index is checked first, and below 32 the bit is the quotient's parity (D21). -/
theorem bitTestConditionals : Obligations.BitTestConditionals :=
  ⟨bitIndexTest_of_testTwo rfl (fun _ _ _ _ => ⟨rfl, rfl⟩) (fun x _ => condBitClear_out_of_range x)
      fun x _ => condBitClear_in_range x,
    bitIndexTest_of_testTwo rfl (fun _ _ _ _ => ⟨rfl, rfl⟩) (fun x _ => condBitClear_out_of_range x)
      fun x _ => condBitClear_in_range x,
    bitIndexTest_of_testTwo (c := condBitSet) rfl (fun _ _ _ _ => ⟨rfl, rfl⟩) (fun x _ => bitTest_out_of_range x)
      fun x _ => bitTest_in_range x,
    bitIndexTest_of_testTwo (c := condBitSet) rfl (fun _ _ _ _ => ⟨rfl, rfl⟩) (fun x _ => bitTest_out_of_range x)
      fun x _ => bitTest_in_range x⟩

end Sys2Proof.Claims
end

section
/-! PROOF. The family 60_exceptions, continued: a model fault is precise (R231, R233). Of the states that a cycle can end in,
only the two that `raise` makes have faulted, and of these only ReentrantCycle's keeps its event (R236). -/

namespace Sys2Proof.Machine

variable {P : Params} {o : Option Operation} {s t : State} {f : ModelFault} {p : Addr}

/-- A cycle that completes has not faulted: dispatch, the commits and step 6 leave the record alone. -/
theorem finish_faulted_of_commits {w : Width} {k : Nat} {x y : Word} {d : Dispatched} {u : State} (n : Nat) (q : Bool)
    (hd : dispatch P o w k s.fetched x y = .ok d) (hu : Commits P d.st u) (hs : s.faulted = none) :
    (finish P n q u).faulted = none := by
  obtain ⟨-, -, -, huf, -⟩ := hu.rest
  rw [finish_faulted, huf, dispatch_faulted hs hd]

/-- Everything a cycle that ends in a fault can end in: the state at its start with the fault raised, or with
ReentrantCycle raised after the event. -/
theorem CycleEnd.raised (h : CycleEnd P o s t) (hs : s.faulted = none) (ht : t.faulted = some (f, p)) :
    t = s.raise f ∨ f = .reentrantCycle ∧ ∃ e, t = (s.emit e).raise f := by
  cases h with
  | faulted g =>
    cases ht
    exact .inl rfl
  | reentered hk code =>
    cases ht
    exact .inr ⟨rfl, _, rfl⟩
  | stopped hk code => cases hs.symm.trans ht
  | continued hk code n =>
    rw [finish_faulted] at ht
    cases hs.symm.trans ht
  | completed q hd hu => cases (finish_faulted_of_commits _ q hd hu hs).symm.trans ht

/-- Everything a step that ends in a fault can end in; a reserved bits-mode raises its fault before any operand (R233). -/
theorem step_raised (h : step s = .next t) (ht : t.faulted = some (f, p)) :
    t = s.raise f ∨ f = .reentrantCycle ∧ ∃ e, t = (s.emit e).raise f := by
  obtain ⟨hs, -, ⟨op, rfl⟩ | ⟨i, -, he⟩⟩ := step_next h
  · cases ht
    exact .inl rfl
  · exact (exec_cycleEnd he).raised hs ht

end Sys2Proof.Machine

namespace Sys2Proof.Claims

open Sys2Proof.Machine

/-- Settles O58: either raised state is the one at the cycle's start but for the record and, for ReentrantCycle, the event
and the answer it used. -/
theorem faultsArePrecise : Obligations.FaultsArePrecise := by
  intro s t f p h ht
  obtain rfl | ⟨hf, e, rfl⟩ := step_raised h ht
  · cases ht
    exact ⟨rfl, rfl, fun _ => rfl⟩
  · cases ht
    exact ⟨rfl, rfl, fun hne => absurd hf hne⟩

end Sys2Proof.Claims
end

section
/-! PROOF. The family 70_reset_and_hazards: the host's `load` is a store of the whole image into memory (R252), so the
rules of a store give what it copies, what it leaves and the form it keeps. -/

namespace Sys2Proof.Machine

variable (s : State) (offset : Addr) (bytes : List Byte)

/-- `load` stores the image into memory (R252). -/
@[simp] theorem State.load_mem : (s.load offset bytes).mem = s.mem.writeBytes offset bytes := rfl

/-- `load` touches no part of the state but memory (R252). -/
theorem State.load_frame : s.load offset bytes = { s with mem := (s.load offset bytes).mem } := rfl

end Sys2Proof.Machine

namespace Sys2Proof.Claims

open Sys2Proof.Machine

/-- Settles O60. An image of at most 65536 bytes meets each address once, so that every byte of it reads back. -/
theorem loadCopiesTheImage : Obligations.LoadCopiesTheImage := by
  intro s offset bytes hm hl
  have hcopied : ∀ k (h : k < bytes.length),
      (s.load offset bytes).mem.read (offset + BitVec.ofNat 16 k) = bytes[k] := fun k h => by
    rw [State.load_mem, Memory.read_writeBytes bytes hm hl h]
  have hkept : ∀ x, outside offset bytes.length x → (s.load offset bytes).mem.read x = s.mem.read x := fun x hx => by
    rw [State.load_mem, Memory.read_writeBytes_other _ _ _ _ hx]
  have hwf : (s.load offset bytes).mem.wf = true := by
    rw [State.load_mem, Memory.writeBytes_wf offset bytes hm]
  exact ⟨hcopied, hkept, State.load_frame s offset bytes, hwf⟩

end Sys2Proof.Claims
end
